-- ==== Sys2Proof/Word.lean ====
section
/-! DEFINITION. The words of the WZ-1240: bytes, line addresses, masks, line data and the numbers of areas, masters and tags. -/

namespace Sys2Proof

/-- One byte of the channel or of the management link. -/
abbrev Byte := BitVec 8

/-- A line address: byte address bits 39 to 5 (R147, R156). -/
abbrev Line := BitVec 35

/-- A byte mask: bit n marks byte n of the line (R156). -/
abbrev Mask := BitVec 32

/-- The 32 bytes of a line: byte n at line offset n (R156). -/
abbrev LineData := Vector Byte 32

/-- A posting area, 0 to 11 (R3). -/
abbrev AreaId := Fin 12

/-- A master, 0 to 15 (R5, R147). -/
abbrev MasterId := Fin 16

/-- A memory-port transaction tag, 0 to 7 (R74). -/
abbrev TagId := Fin 8

/-- The eleven positions of the Event Set and of the alert mask (R131, R157). -/
abbrev EventWord := BitVec 11

end Sys2Proof
end

