-- ==== Sys2Proof/Syntax.lean ====
section
/-! DEFINITION. The commands of the bridge: one constructor per row of spec/opcode_table.json, with the operands the spec gives it. -/

namespace Sys2Proof

/-- The memory controller's ready line (R151): withdrawn, or ready until it changes, or ready for one request and `further` more, after
whose acceptance the controller withdraws it (log 10). -/
inductive Ready where
  | withdrawn
  | ready
  | readyFor (further : Nat)
  deriving DecidableEq, Repr

/-- A command that the block takes. Operands of a management command are the argument bytes as they cross the
link (R158); multi-byte numbers stand as one word, most significant byte first (R157). -/
inductive Instr where
  /-- WRITE, R19: a fabric WRITE request. -/
  | write (master : MasterId) (line : Line) (mask : Mask) (strict : Bool) (data : LineData)
  /-- READ, R40: a fabric READ request. -/
  | read (master : MasterId) (line : Line) (mask : Mask)
  /-- SYNC, R91: a fabric SYNC request; its other fields are ignored (R147). -/
  | sync (master : MasterId)
  /-- UNKNOWN_KIND_REQUEST, R147: a fabric request whose 2-bit kind is unlisted. -/
  | unknownKindRequest (master : MasterId) (kind : BitVec 2)
  /-- ANSWER_DELIVERY, R148: the fabric's accept handshake takes the oldest answer. -/
  | answerDelivery
  /-- ARBITER_GRANT, R65: one grant, if one can be made. -/
  | arbiterGrant
  /-- MEMORY_READY, R151: a change of the memory controller's ready signal. -/
  | memoryReady (level : Ready)
  /-- COMPLETION, R78: a completion on a tag, with its 2-bit result and its data (R153, R156). -/
  | completion (tag : TagId) (result : BitVec 2) (data : LineData)
  /-- EXPIRY, R84: the response timer of a tag expires. -/
  | expiry (tag : TagId)
  /-- LINGER_EXPIRY, R60: the linger timer of an area expires. -/
  | lingerExpiry (area : AreaId)
  /-- POSTING_WAIT_RETRY, R27: the write waiting for a slot of this area is decided again. -/
  | postingWaitRetry (area : AreaId)
  /-- HOLD_RELEASE, R48: this master's Hold List context is tested for release. -/
  | holdRelease (master : MasterId)
  /-- SYNC_COMPLETION, R92: this master's waiting SYNC is tested for completion. -/
  | syncCompletion (master : MasterId)
  /-- DETACH_COMPLETION, R17: this area is tested for the end of its detach. -/
  | detachCompletion (area : AreaId)
  /-- PURGE_END, R114: this area is tested for the end of its purge. -/
  | purgeEnd (area : AreaId)
  /-- DRAIN_END, R130: this area is tested for the end of its drain. -/
  | drainEnd (area : AreaId)
  /-- SOFT_RESET_END, R141: the soft reset is tested for its end. -/
  | softResetEnd
  /-- IDENTIFY, R122. -/
  | identify
  /-- GET STATUS, R123. -/
  | getStatus
  /-- GET AREA, R124. -/
  | getArea (area : Byte)
  /-- GET MASTER, R125. -/
  | getMaster (master : Byte)
  /-- SET POOL, R2: the sizes of areas 0 to 11. -/
  | setPool (sizes : Vector Byte 12)
  /-- SET AREA, R126. -/
  | setArea (area policy escalate retry linger highWater merge : Byte)
  /-- SET GLOBAL, R127. -/
  | setGlobal (timeout : BitVec 16) (arbitration overflowEscalates : Byte) (alertMask : BitVec 16)
  /-- JOIN, R14. -/
  | join (area master : Byte)
  /-- UNJOIN, R15. -/
  | unjoin (area : Byte)
  /-- RESUME, R111. -/
  | resume (area : Byte)
  /-- PURGE, R112. -/
  | purge (area : Byte)
  /-- DRAIN, R129. -/
  | drain (area : Byte)
  /-- PEEK FAULT, R106. -/
  | peekFault
  /-- READ FAULT, R106. -/
  | readFault
  /-- CLEAR MASTER, R100. -/
  | clearMaster (master : Byte)
  /-- ACK EVENTS, R133: the 16-bit argument of R157. -/
  | ackEvents (events : BitVec 16)
  /-- RECOVER TAGS, R88. -/
  | recoverTags
  /-- SOFT RESET, R137. -/
  | softReset
  /-- READ RESET RECORD, R135. -/
  | readResetRecord
  /-- CLEAR RESET RECORD, R135. -/
  | clearResetRecord
  /-- UNKNOWN_COMMAND, R119: a command byte that names no command. -/
  | unknownCommand (code : Byte)
  /-- SELECT_RELEASE, R117, R118. -/
  | selectRelease
  /-- PIN_RESET, R143: an assertion of RESET# is recognised (R159). -/
  | pinReset
  /-- RESET_RELEASE, R143, R159: RESET# is released; straps are the levels of PSEL1 and PSEL0. -/
  | resetRelease (straps : BitVec 2)
  /-- POWER_ON, R144: power is applied, with these strap levels and with RESET# asserted or not. -/
  | powerOn (straps : BitVec 2) (resetLow : Bool)
  /-- SELECT_ASSERTION, R117. -/
  | selectAssertion
  /-- FAULT_RECORD_REMOVAL, R106: the eighth bit of the last READ FAULT reply byte is sampled. -/
  | faultRecordRemoval
  deriving DecidableEq, Repr

end Sys2Proof
end

