-- ==== Sys2Proof/WellFormed.lean ====
section
/-! DEFINITION. Which terms of Instr are commands of the bridge: an "unlisted" code must be unlisted (R156, R158). -/

namespace Sys2Proof

/-- The management command codes of the table of R158. -/
def commandCodes : List Byte :=
  [0x01#8, 0x02#8, 0x03#8, 0x04#8, 0x05#8, 0x06#8, 0x07#8, 0x10#8, 0x11#8, 0x12#8, 0x13#8, 0x14#8,
    0x20#8, 0x21#8, 0x22#8, 0x23#8, 0x30#8, 0x31#8, 0x32#8, 0x33#8]

/-- The fabric kind codes that are listed: 0 READ, 1 WRITE, 2 SYNC (R156). -/
def listedKinds : List (BitVec 2) := [0#2, 1#2, 2#2]

/-- Every term is a command except an unknown-kind request with a listed kind and an unknown command with a listed
code. All other operands fit their fields by their types; a value outside a field's permitted range is a command
too, refused RANGE by its own checks (R119, R157). -/
def Instr.wellFormed : Instr → Bool
  | .unknownKindRequest _ kind => !listedKinds.contains kind
  | .unknownCommand code => !commandCodes.contains code
  | .write .. | .read .. | .sync .. | .answerDelivery | .arbiterGrant | .memoryReady .. | .completion .. | .expiry ..
  | .lingerExpiry .. | .postingWaitRetry .. | .holdRelease .. | .syncCompletion .. | .detachCompletion .. | .purgeEnd ..
  | .drainEnd .. | .softResetEnd | .identify | .getStatus | .getArea .. | .getMaster .. | .setPool .. | .setArea ..
  | .setGlobal .. | .join .. | .unjoin .. | .resume .. | .purge .. | .drain .. | .peekFault | .readFault | .clearMaster ..
  | .ackEvents .. | .recoverTags | .softReset | .readResetRecord | .clearResetRecord | .selectRelease | .pinReset
  | .resetRelease .. | .powerOn .. | .selectAssertion | .faultRecordRemoval => true

end Sys2Proof
end

