-- ==== Sys2Proof/Decode.lean ====
section
/-! DEFINITION. Decoding: table words (no row gives bits), fabric requests by their kind (R147, R156), and management frames by
their command code and argument bytes (R157, R158), with the frame's encoder. -/

namespace Sys2Proof

/-- The command that a table word spells. No row of spec/opcode_table.json gives any bits, so no word spells a command. -/
def decodeTableWord (_nbits _w : Nat) : Option Instr := none

/-! ## Fabric requests -/

/-- A fabric request by its 2-bit kind: 0 READ, 1 WRITE, 2 SYNC; 3 is unlisted (R147, R156). -/
def decodeRequest (master : MasterId) (kind : BitVec 2) (line : Line) (mask : Mask) (strict : Bool) (data : LineData) : Instr :=
  if kind = 0#2 then .read master line mask
  else if kind = 1#2 then .write master line mask strict data
  else if kind = 2#2 then .sync master
  else .unknownKindRequest master kind

/-! ## Management frames -/

/-- A 16-bit number from two bytes, most significant first (R157). -/
def word16 (hi lo : Byte) : BitVec 16 := hi ++ lo

def hiByte (w : BitVec 16) : Byte := w.extractLsb' 8 8

def loByte (w : BitVec 16) : Byte := w.extractLsb' 0 8

/-- Twelve bytes as the sizes of areas 0 to 11 (R158). -/
def sizesOf (args : List Byte) : Option (Vector Byte 12 × List Byte) :=
  match args with
  | a :: b :: c :: d :: e :: f :: g :: h :: i :: j :: k :: l :: rest => some (#v[a, b, c, d, e, f, g, h, i, j, k, l], rest)
  | _ => none

/-- A command with one argument byte. -/
def oneByte (k : Byte → Instr) (args : List Byte) : Option (Instr × List Byte) :=
  match args with
  | a :: rest => some (k a, rest)
  | [] => none

/-- A command with two argument bytes. -/
def twoBytes (k : Byte → Byte → Instr) (args : List Byte) : Option (Instr × List Byte) :=
  match args with
  | a :: b :: rest => some (k a b, rest)
  | _ => none

/-- The arguments of SET AREA (R158). -/
def settingsOf (args : List Byte) : Option (Instr × List Byte) :=
  match args with
  | a :: b :: c :: d :: e :: f :: g :: rest => some (.setArea a b c d e f g, rest)
  | _ => none

/-- The arguments of SET GLOBAL (R158). -/
def globalsOf (args : List Byte) : Option (Instr × List Byte) :=
  match args with
  | t1 :: t0 :: arb :: ovf :: m1 :: m0 :: rest => some (.setGlobal (word16 t1 t0) arb ovf (word16 m1 m0), rest)
  | _ => none

/-- The arguments that follow a command code, by the table of R158; an unlisted code is taken without any (R119). -/
def decodeArguments (code : Byte) (args : List Byte) : Option (Instr × List Byte) :=
  match code.toNat with
  | 0x01 => some (.identify, args)
  | 0x02 => some (.getStatus, args)
  | 0x03 => oneByte .getArea args
  | 0x04 => oneByte .getMaster args
  | 0x05 => (sizesOf args).map fun p => (.setPool p.1, p.2)
  | 0x06 => settingsOf args
  | 0x07 => globalsOf args
  | 0x10 => twoBytes .join args
  | 0x11 => oneByte .unjoin args
  | 0x12 => oneByte .resume args
  | 0x13 => oneByte .purge args
  | 0x14 => oneByte .drain args
  | 0x20 => some (.peekFault, args)
  | 0x21 => some (.readFault, args)
  | 0x22 => oneByte .clearMaster args
  | 0x23 => twoBytes (fun hi lo => .ackEvents (word16 hi lo)) args
  | 0x30 => some (.recoverTags, args)
  | 0x31 => some (.softReset, args)
  | 0x32 => some (.readResetRecord, args)
  | 0x33 => some (.clearResetRecord, args)
  | _ => some (.unknownCommand code, args)

/-- The command of a frame's bytes, with the bytes left over; none while the command or its arguments are incomplete (R117, R118). -/
def decodeFrame (bytes : List Byte) : Option (Instr × List Byte) :=
  match bytes with
  | [] => none
  | code :: args => decodeArguments code args

/-- The bytes that a frame carries for a management command: its code and its arguments (R158); none for the other commands. -/
def encodeFrame : Instr → Option (List Byte)
  | .identify => some [0x01#8]
  | .getStatus => some [0x02#8]
  | .getArea a => some [0x03#8, a]
  | .getMaster m => some [0x04#8, m]
  | .setPool sizes => some (0x05#8 :: sizes.toList)
  | .setArea a b c d e f g => some [0x06#8, a, b, c, d, e, f, g]
  | .setGlobal t arb ovf mask => some [0x07#8, hiByte t, loByte t, arb, ovf, hiByte mask, loByte mask]
  | .join a m => some [0x10#8, a, m]
  | .unjoin a => some [0x11#8, a]
  | .resume a => some [0x12#8, a]
  | .purge a => some [0x13#8, a]
  | .drain a => some [0x14#8, a]
  | .peekFault => some [0x20#8]
  | .readFault => some [0x21#8]
  | .clearMaster m => some [0x22#8, m]
  | .ackEvents w => some [0x23#8, hiByte w, loByte w]
  | .recoverTags => some [0x30#8]
  | .softReset => some [0x31#8]
  | .readResetRecord => some [0x32#8]
  | .clearResetRecord => some [0x33#8]
  | .unknownCommand code => some [code]
  | .write .. | .read .. | .sync .. | .unknownKindRequest .. | .answerDelivery | .arbiterGrant | .memoryReady .. | .completion ..
  | .expiry .. | .lingerExpiry .. | .postingWaitRetry .. | .holdRelease .. | .syncCompletion .. | .detachCompletion ..
  | .purgeEnd .. | .drainEnd .. | .softResetEnd | .selectRelease | .pinReset | .resetRelease .. | .powerOn ..
  | .selectAssertion | .faultRecordRemoval => none

end Sys2Proof
end

