-- ==== Sys2Proof/Config.lean ====
section
/-! DEFINITION. What the part fixes: its capacities, its reset settings, and the one constant the manual does not state. -/

namespace Sys2Proof.Config

/-- Slots of the line pool (R1). -/
def slots : Nat := 384

/-- Places of the Hold List (R47). -/
def holdPlaces : Nat := 8

/-- Records of the Fault Log (R104). -/
def logRecords : Nat := 16

/-- The bound of the drain-tag count (R56). -/
def drainTagLimit : Nat := 6

/-- The bound of an area's ISSUED entries (R56). -/
def issuedLimit : Nat := 4

/-- The largest size of an area in slots (R2). -/
def maxAreaSize : Nat := 128

/-- Saturation of a master's pending-fault count (R5). -/
def pendingMax : Nat := 255

/-- Saturation of the overflow count (R105). -/
def overflowMax : Nat := 65535

/-- The area size at reset (R2, R3). -/
def resetSize : Nat := 32

/-- The retry limit at reset (R3). -/
def resetRetry : Nat := 1

/-- The response timeout at reset, in microseconds (R77). -/
def resetTimeout : Nat := 500

/-- The alert mask at reset, 0487H: FAULT, OVERFLOW, HALT, EXHAUSTED, ESCALATED (R132, R157). -/
def resetAlertMask : EventWord := 0x487#11

/-- Vendor and part codes of IDENTIFY (R122). -/
def vendorCode : Nat := 0x0A5C

def partCode : Nat := 0x1240

/-- How many revisions of the part came before this one. The manual gives no value: a free value, log 19. No body, so nothing can be
proved of it but its bound. -/
opaque earlierRevisions : Fin 255

/-- The revision number of the part, one byte counting from 01H (R122, layout 11.3). -/
def revision : Byte := BitVec.ofNat 8 (earlierRevisions.val + 1)

end Sys2Proof.Config
end

