-- ==== Sys2Proof/Machine/State.lean ====
section
/-! DEFINITION. The state of the bridge as plain data, and its value after reset. -/

namespace Sys2Proof.Machine

/-- Area states (R4). -/
inductive AreaState where
  | free | joined | halted | detaching
  deriving DecidableEq, Repr

/-- Fault policies (R107, R108, R110). -/
inductive FaultPolicy where
  | carryOn  -- CONTINUE
  | halt
  | discard
  deriving DecidableEq, Repr

/-- The escalate setting (R115). -/
inductive Escalate where
  | never  -- NONE
  | resetRequest
  deriving DecidableEq, Repr

/-- A pending long operation with its mark in the posting order (R3, R128). -/
inductive LongOp where
  | drain (mark : Nat)
  | purge (mark : Nat)
  | detach
  deriving DecidableEq, Repr

/-- Last long-operation outcome (R3). -/
inductive LastOutcome where
  | nothing  -- NONE
  | complete
  | cutShort
  deriving DecidableEq, Repr

/-- Entry states (R10); the tag is present exactly while ISSUED (R8). -/
inductive EntryState where
  | held
  | issued (tag : TagId)
  | reissue
  deriving DecidableEq, Repr

/-- One posted write (R8). Its area is the one whose queue holds it (R11). Unmarked data bytes are held as 00H. -/
structure Entry where
  line : Line
  mask : Mask
  data : LineData
  place : Nat        -- its place in the posting order (R9)
  strict : Bool
  state : EntryState
  attempts : Nat
  lingerStart : Nat  -- microseconds
  deriving DecidableEq, Repr

/-- One area record (R3). Occupancy, Blocked-by, urgency and the linger timer follow from the rest (log 15). -/
@[ext] structure AreaRec where
  state : AreaState
  master : Option MasterId
  size : Nat
  policy : FaultPolicy
  escalate : Escalate
  retry : Nat
  linger : Nat
  highWater : Nat
  merge : Bool
  pendingOp : Option LongOp
  lastOutcome : LastOutcome
  queue : List Entry          -- oldest first (R11)
  inShutdown : Bool           -- has taken part in the soft reset in progress (R141, log 16)
  deriving DecidableEq, Repr

/-- Fault causes (R102). -/
inductive FaultCause where
  | fail | decode | timeout | purged | discarded
  deriving DecidableEq, Repr

/-- A first unreported fault (R5). -/
structure FirstFault where
  line : Line
  cause : FaultCause
  deriving DecidableEq, Repr

/-- The write that a POSTING_WAIT context holds (R26). -/
structure WriteReq where
  line : Line
  mask : Mask
  data : LineData
  strict : Bool
  deriving DecidableEq, Repr

/-- The write that a THROUGH_WAIT context holds, with its mark (R34). -/
structure ThroughReq where
  line : Line
  mask : Mask
  data : LineData
  mark : Nat
  deriving DecidableEq, Repr

/-- The read that a READ_WAIT context holds (R46). -/
structure ReadReq where
  line : Line
  mask : Mask
  deriving DecidableEq, Repr

/-- Where a THROUGH_WAIT or READ_WAIT request is (R7): in the Hold List, where it waits for its line and then, released,
for the arbiter; or issued on a tag, where it waits for its completion. -/
inductive Stage where
  | inHold
  | issued (tag : TagId)
  deriving DecidableEq, Repr

/-- A master's request context (R7). STRICT_WAIT names its entry by its place, which no other entry shares (R9). -/
inductive Context where
  | idle
  | postingWait (w : WriteReq)
  | strictWait (place : Nat)
  | throughWait (w : ThroughReq) (stage : Stage)
  | readWait (r : ReadReq) (stage : Stage)
  | syncWait (mark : Nat)
  deriving DecidableEq, Repr

/-- One master record (R5). -/
@[ext] structure MasterRec where
  joinedArea : Option AreaId
  detachingArea : Option AreaId
  pendingCount : Nat
  firstFault : Option FirstFault
  throughSeen : Bool
  context : Context
  deriving DecidableEq, Repr

/-- One place of the Hold List (R47). Kind, line and mark stand in the master's context. -/
structure HoldPlace where
  master : MasterId
  released : Bool
  deriving DecidableEq, Repr

/-- Kind of a memory-port request (R152). -/
inductive MemKind where
  | read | write
  deriving DecidableEq, Repr

/-- A request as the Memory Port presents it (R152), less its tag. -/
structure MemRequest where
  kind : MemKind
  line : Line
  mask : Mask
  data : LineData
  deriving DecidableEq, Repr

/-- The user of a BUSY tag (R74): a posted entry, by its area and place, or a master context. -/
inductive TagUser where
  | entry (area : AreaId) (place : Nat)
  | master (m : MasterId)
  deriving DecidableEq, Repr

/-- What a BUSY tag holds (R74, R76). -/
structure Transaction where
  user : TagUser
  request : MemRequest
  started : Nat   -- microseconds
  timeout : Nat   -- microseconds, as in force at the issue (R77)
  deriving DecidableEq, Repr

/-- Tag states (R74). -/
inductive TagState where
  | free
  | busy (t : Transaction)
  | stale (fromDrain : Bool)
  deriving DecidableEq, Repr

/-- Disposition of a fault record (R102). -/
inductive Disposition where
  | pending | direct
  deriving DecidableEq, Repr

/-- One fault record (R102). -/
structure FaultRecord where
  number : BitVec 16
  master : MasterId
  area : Option AreaId
  line : Line
  mask : Option Mask
  cause : FaultCause
  attempts : Nat
  entries : Nat
  disposition : Disposition
  escalated : Bool
  deriving DecidableEq, Repr

/-- Reasons of an ERROR answer (R150). -/
inductive Reason where
  | memory | decode | timeout | halted | protocol
  deriving DecidableEq, Repr

/-- What a fabric answer says (R150): OKAY without data, OKAY with read data, ERROR, RETRY, DEFERRED. -/
inductive AnswerBody where
  | okay
  | okayData (data : LineData)
  | error (reason : Reason)
  | retry
  | deferred (count : Nat) (first : Option FirstFault)
  deriving DecidableEq, Repr

/-- A fabric answer (R150). -/
structure Answer where
  master : MasterId
  body : AnswerBody
  deriving DecidableEq, Repr

/-- Bridge modes (R137). -/
inductive Mode where
  | running | shutdown
  deriving DecidableEq, Repr

/-- The arbitration setting (R67). -/
inductive Arbitration where
  | roundRobin | fixed
  deriving DecidableEq, Repr

/-- Reset causes (R145). -/
inductive ResetCause where
  | nothing | power | pin | soft
  deriving DecidableEq, Repr

/-- The Reset Record (R145). -/
structure ResetRecord where
  cause : ResetCause
  heldLost : Nat
  issuedUncertain : Nat
  unreadFaults : Nat
  overflow : Nat
  requested : Bool
  deriving DecidableEq, Repr

/-- Management statuses (R120). -/
inductive Status where
  | done | accepted | busy | wrongState | range | conflict | unknown | empty
  deriving DecidableEq, Repr

/-- The frame in hand (R117). A taken command holds the bytes taken since the assertion of select, the status and the
reply composed at that moment (R121), and whether a READ FAULT removal is still due (R106). -/
inductive Frame where
  | waiting      -- select is released
  | abandoned    -- select has stayed asserted across a pin reset
  | command      -- select is asserted and no command has been taken
  | taken (bytes : Nat) (status : Status) (reply : List Byte) (removalDue : Bool)
  deriving DecidableEq, Repr

/-- The machine. Every field is plain data. -/
@[ext]
structure State where
  areas : Vector AreaRec 12
  masters : Vector MasterRec 16
  tags : Vector TagState 8
  holdList : List HoldPlace        -- arrival order (R47)
  nextPlace : Nat                  -- the next place of the posting order (R9)
  pointer : AreaId                 -- round-robin pointer (R67)
  faultLog : List FaultRecord      -- oldest first (R104)
  overflowCount : Nat
  recordCounter : BitVec 16
  rstreq : Bool
  events : EventWord
  alertMask : EventWord
  timeout : Nat
  arbitration : Arbitration
  overflowEscalates : Bool
  frame : Frame
  mode : Mode
  resetRecord : ResetRecord
  responses : List Answer          -- oldest first (R148)
  resetHeld : Bool                 -- RESET# has been recognised and is still asserted (R143)
  straps : BitVec 2                -- PSEL1, PSEL0 as last sampled (R159)
  memoryReady : Ready              -- the memory controller's ready line (R151)
  now : Nat                        -- the model's clock, microseconds (log 4)
  pending : List Instr             -- commands waiting, first in first out (log 1)
  deriving DecidableEq, Repr

/-- Why a step stops with a fault. The manual describes nothing that stops the bridge, so there is no such reason:
no command raises one, which is the strong (not the lenient) side. -/
inductive Fault
  deriving DecidableEq, Repr

/-- Why a step is refused. -/
inductive Refusal where
  /-- A command whose arm has no meaning yet would raise this; none does. A stop where the bridge goes on is safe. -/
  | notModelled (mnemonic : String)
  deriving DecidableEq, Repr

/-- An area record at power-on and pin reset (R3). -/
def AreaRec.reset : AreaRec where
  state := .free
  master := none
  size := Config.resetSize
  policy := .carryOn
  escalate := .never
  retry := Config.resetRetry
  linger := 0
  highWater := 0
  merge := true
  pendingOp := none
  lastOutcome := .nothing
  queue := []
  inShutdown := false

/-- A master record at power-on and pin reset (R5, R18). -/
def MasterRec.reset : MasterRec where
  joinedArea := none
  detachingArea := none
  pendingCount := 0
  firstFault := none
  throughSeen := false
  context := .idle

/-- The Reset Record that power-on writes (R144). -/
def ResetRecord.power : ResetRecord where
  cause := .power
  heldLost := 0
  issuedUncertain := 0
  unreadFaults := 0
  overflow := 0
  requested := false

/-- The machine right after power-on with RESET# released (R18, R54, R73, R90, R101, R116, R136, R144, R155).
DESIGN CHOICE, unsafe: the levels of the input pins (straps 00, memory controller ready: log 10, log 11) and the clock. -/
def State.reset : State where
  areas := Vector.replicate 12 AreaRec.reset
  masters := Vector.replicate 16 MasterRec.reset
  tags := Vector.replicate 8 .free
  holdList := []
  nextPlace := 0
  pointer := 0
  faultLog := []
  overflowCount := 0
  recordCounter := 0
  rstreq := false
  events := 0
  alertMask := Config.resetAlertMask
  timeout := Config.resetTimeout
  arbitration := .roundRobin
  overflowEscalates := false
  frame := .waiting
  mode := .running
  resetRecord := ResetRecord.power
  responses := []
  resetHeld := false
  straps := 0
  memoryReady := .ready
  now := 0
  pending := []

end Sys2Proof.Machine
end

