-- ==== Sys2Proof/Machine/Ops.lean ====
section
/-! DEFINITION. The named operations over the bridge's records: bytes of a line, areas, masters, tags, answers, and the views
of the state that the manual names but that follow from it (log 15). -/

namespace Sys2Proof.Machine

/-! ## Bytes of a line -/

/-- 00H in every byte (R41, R156). -/
def zeroData : LineData := Vector.replicate 32 0#8

/-- Only the bytes marked in the mask; 00H elsewhere (R19, R150, R152). -/
def keepMarked (mask : Mask) (data : LineData) : LineData :=
  Vector.ofFn fun i => if mask.getLsbD i then data[i] else 0#8

/-- The bytes marked in the mask from `new`, the others from `old` (R24). -/
def overlay (mask : Mask) (new old : LineData) : LineData :=
  Vector.ofFn fun i => if mask.getLsbD i then new[i] else old[i]

/-! ## Areas, masters, tags -/

/-- Area numbers in rising order. -/
def allAreas : List AreaId := List.finRange 12

/-- Master numbers in rising order. -/
def allMasters : List MasterId := List.finRange 16

/-- Tag numbers in rising order. -/
def allTags : List TagId := List.finRange 8

def State.area (s : State) (a : AreaId) : AreaRec := s.areas[a]

def State.setArea (s : State) (a : AreaId) (r : AreaRec) : State := { s with areas := s.areas.set a r }

def State.master (s : State) (m : MasterId) : MasterRec := s.masters[m]

def State.setMaster (s : State) (m : MasterId) (r : MasterRec) : State := { s with masters := s.masters.set m r }

def State.tag (s : State) (t : TagId) : TagState := s.tags[t]

def State.setTag (s : State) (t : TagId) (v : TagState) : State := { s with tags := s.tags.set t v }

/-- A master's request context (R7). -/
def State.context (s : State) (m : MasterId) : Context := (s.master m).context

def State.setContext (s : State) (m : MasterId) (c : Context) : State :=
  s.setMaster m { s.master m with context := c }

def State.setQueue (s : State) (a : AreaId) (q : List Entry) : State :=
  s.setArea a { s.area a with queue := q }

/-! ## Entries -/

/-- Is the entry in ISSUED? -/
def Entry.isIssued (e : Entry) : Bool :=
  match e.state with
  | .issued _ => true
  | .held | .reissue => false

/-- Is the entry in HELD? -/
def Entry.isHeld (e : Entry) : Bool :=
  match e.state with
  | .held => true
  | .issued _ | .reissue => false

/-- Live entries in the area's queue (R3). -/
def AreaRec.occupancy (r : AreaRec) : Nat := r.queue.length

/-- The number of the area's entries in ISSUED (R56, R124). -/
def AreaRec.issuedCount (r : AreaRec) : Nat := r.queue.countP Entry.isIssued

/-- The head: the oldest entry in HELD or REISSUE (R55). -/
def AreaRec.head (r : AreaRec) : Option Entry := r.queue.find? fun e => !e.isIssued

/-- The area's live entry of this place in the posting order. -/
def AreaRec.entryAt (r : AreaRec) (place : Nat) : Option Entry := r.queue.find? fun e => e.place == place

/-- Does the area hold a live entry for the line? -/
def AreaRec.holdsLine (r : AreaRec) (line : Line) : Bool := r.queue.any fun e => e.line == line

/-- Does the area hold a live entry for the line posted before the mark (R9)? -/
def AreaRec.holdsLineBefore (r : AreaRec) (line : Line) (mark : Nat) : Bool :=
  r.queue.any fun e => e.line == line && decide (e.place < mark)

/-- Does the area hold a live entry posted before the mark (R9)? -/
def AreaRec.holdsBefore (r : AreaRec) (mark : Nat) : Bool := r.queue.any fun e => decide (e.place < mark)

/-- Is a PURGE pending on the area (R81, R113)? -/
def AreaRec.purgePending (r : AreaRec) : Bool :=
  match r.pendingOp with
  | some (.purge _) => true
  | some (.drain _) | some .detach | none => false

/-- A live entry for the line exists in some area (R40, R46). -/
def State.lineLive (s : State) (line : Line) : Bool := allAreas.any fun a => (s.area a).holdsLine line

/-- A live entry for the line posted before the mark exists in some area (R36). -/
def State.lineLiveBefore (s : State) (line : Line) (mark : Nat) : Bool :=
  allAreas.any fun a => (s.area a).holdsLineBefore line mark

/-- A HALTED area holds a live entry for the line (R35, R40, R45). -/
def State.lineHalted (s : State) (line : Line) : Bool :=
  allAreas.any fun a => (s.area a).state == .halted && (s.area a).holdsLine line

/-- The live entries for the line, in all areas (R42). -/
def State.entriesFor (s : State) (line : Line) : List Entry :=
  allAreas.flatMap fun a => (s.area a).queue.filter fun e => e.line == line

/-- Live entries in all areas (R123). -/
def State.poolOccupancy (s : State) : Nat := (allAreas.map fun a => (s.area a).occupancy).sum

/-- Removes the entry of this place from the area's queue; those behind it keep their order (R11, R12). -/
def State.removeEntry (s : State) (a : AreaId) (place : Nat) : State :=
  s.setQueue a ((s.area a).queue.filter fun e => e.place != place)

/-- Changes the entry of this place in the area's queue, in its position. -/
def State.updateEntry (s : State) (a : AreaId) (place : Nat) (f : Entry → Entry) : State :=
  s.setQueue a ((s.area a).queue.map fun e => if e.place == place then f e else e)

/-! ## Tags -/

/-- The BUSY tag's transaction, if the tag is BUSY. -/
def TagState.transaction : TagState → Option Transaction
  | .busy t => some t
  | .free | .stale _ => none

/-- Was the tag's user a posted entry (R74)? -/
def TagUser.isEntry : TagUser → Bool
  | .entry _ _ => true
  | .master _ => false

/-- Does the tag stand in the drain-tag count: BUSY with a posted entry, or STALE with the from-drain flag (R56, R74)? -/
def TagState.drainTag : TagState → Bool
  | .free => false
  | .busy t => t.user.isEntry
  | .stale fromDrain => fromDrain

/-- Is the tag BUSY with a posted entry as its user (R66)? -/
def TagState.busyWithEntry : TagState → Bool
  | .busy t => t.user.isEntry
  | .free | .stale _ => false

def TagState.isFree : TagState → Bool
  | .free => true
  | .busy _ | .stale _ => false

def TagState.isBusy : TagState → Bool
  | .busy _ => true
  | .free | .stale _ => false

def TagState.isStale : TagState → Bool
  | .stale _ => true
  | .free | .busy _ => false

/-- The drain-tag count (R56, R74). -/
def State.drainTagCount (s : State) : Nat := allTags.countP fun t => (s.tag t).drainTag

/-- Is the tag BUSY with a transaction on the line? -/
def TagState.busyOn (v : TagState) (line : Line) : Bool :=
  match v with
  | .busy t => t.request.line == line
  | .free | .stale _ => false

/-- Is the line in the Line Busy set: the line of a BUSY tag (R75)? -/
def State.lineBusy (s : State) (line : Line) : Bool := allTags.any fun t => (s.tag t).busyOn line

/-- The Line Busy set (R75). -/
def State.lineBusySet (s : State) : List Line :=
  allTags.filterMap fun t => (s.tag t).transaction.map fun tr => tr.request.line

/-- The lowest-numbered FREE tag (R65, R76). -/
def State.lowestFree (s : State) : Option TagId := allTags.find? fun t => (s.tag t).isFree

/-! ## Answers -/

/-- Places an answer at the tail of the response queue (R148). -/
def State.send (s : State) (m : MasterId) (body : AnswerBody) : State :=
  { s with responses := s.responses ++ [{ master := m, body := body }] }

/-- Answers the request in progress of a master: the answer is sent and the context is IDLE (R7, R148). -/
def State.answer (s : State) (m : MasterId) (body : AnswerBody) : State := (s.setContext m .idle).send m body

/-- Inserts an answer behind those of lower or equal master number. -/
def insertAnswer (x : Answer) : List Answer → List Answer
  | [] => [x]
  | y :: ys => if x.master < y.master then x :: y :: ys else y :: insertAnswer x ys

/-- Answers in ascending order of master number. -/
def sortAnswers : List Answer → List Answer
  | [] => []
  | x :: xs => insertAnswer x (sortAnswers xs)

/-- The answers composed by one change, those behind the first n of the queue, stand in ascending order of master number (R148). -/
def State.orderAnswers (s : State) (n : Nat) : State :=
  { s with responses := s.responses.take n ++ sortAnswers (s.responses.drop n) }

/-- The Fabric Port signals ready: the response queue is empty (R148) and RESET# is not asserted (R143). -/
def State.fabricReady (s : State) : Bool := s.responses.isEmpty && !s.resetHeld

/-- While RESET# stays asserted the bridge stays at its reset values and takes nothing (R143). -/
def State.unlessReset (s : State) (k : State → State) : State := if s.resetHeld then s else k s

/-! ## Through-writes and the Hold List -/

/-- The unfinished through-write of a master, if it has one (R37). -/
def Context.through : Context → Option ThroughReq
  | .throughWait w _ => some w
  | .idle | .postingWait _ | .strictWait _ | .readWait _ _ | .syncWait _ => none

/-- A through-write for the line is unfinished (R42). -/
def State.throughUnfinished (s : State) (line : Line) : Bool :=
  allMasters.any fun m =>
    match (s.context m).through with
    | some w => w.line == line
    | none => false

/-- A through-write for the line is unfinished whose mark lies before this place (R37, R57). -/
def State.throughBefore (s : State) (line : Line) (place : Nat) : Bool :=
  allMasters.any fun m =>
    match (s.context m).through with
    | some w => w.line == line && decide (w.mark ≤ place)
    | none => false

/-- A through-write for the line is unfinished whose mark lies after this place (R23). -/
def State.throughAfter (s : State) (line : Line) (place : Nat) : Bool :=
  allMasters.any fun m =>
    match (s.context m).through with
    | some w => w.line == line && decide (place < w.mark)
    | none => false

/-- The line of the request that waits in the Hold List for this context, if one does (R47). -/
def Context.heldLine : Context → Option Line
  | .throughWait w .inHold => some w.line
  | .readWait r .inHold => some r.line
  | .throughWait _ (.issued _) | .readWait _ (.issued _) | .idle | .postingWait _ | .strictWait _ | .syncWait _ => none

/-- The release condition of a waiting request (R48): a read's line has no live entry, a through-write's has none posted before
its mark; and the line is not busy. -/
def State.lineClear (s : State) (c : Context) : Bool :=
  match c with
  | .readWait r .inHold => !s.lineLive r.line && !s.lineBusy r.line
  | .throughWait w .inHold => !s.lineLiveBefore w.line w.mark && !s.lineBusy w.line
  | .throughWait _ (.issued _) | .readWait _ (.issued _) | .idle | .postingWait _ | .strictWait _ | .syncWait _ => false

/-- Takes a master's place out of the Hold List; those behind move up (R47). -/
def State.leaveHold (s : State) (m : MasterId) : State :=
  { s with holdList := s.holdList.filter fun p => p.master != m }

/-- Does an unreleased read of this context wait for a live entry of the area (R50, R62)? -/
def AreaRec.holdsUpRead (r : AreaRec) (c : Context) : Bool :=
  match c with
  | .readWait q .inHold => r.holdsLine q.line
  | .readWait _ (.issued _) | .throughWait _ _ | .idle | .postingWait _ | .strictWait _ | .syncWait _ => false

/-- Does an unreleased through-write of this context wait for a live entry of the area posted before its mark (R38, R62)? -/
def AreaRec.holdsUpThrough (r : AreaRec) (c : Context) : Bool :=
  match c with
  | .throughWait w .inHold => r.holdsLineBefore w.line w.mark
  | .throughWait _ (.issued _) | .readWait _ _ | .idle | .postingWait _ | .strictWait _ | .syncWait _ => false

/-- Does the place hold an unreleased request that waits on the area? -/
def State.waitsOn (s : State) (a : AreaId) (p : HoldPlace) : Bool :=
  !p.released && ((s.area a).holdsUpRead (s.context p.master) || (s.area a).holdsUpThrough (s.context p.master))

/-- Every unreleased context whose release condition holds is marked released, and stays so (R48). The condition can begin to
hold only at the events R48 lists, at each of which this runs. -/
def State.releaseHolds (s : State) : State :=
  { s with holdList := s.holdList.map fun p => if s.lineClear (s.context p.master) then { p with released := true } else p }

end Sys2Proof.Machine
end

