-- ==== Sys2Proof/Machine/Flags.lean ====
section
/-! DEFINITION. The Event Set, the alert mask and ALERT (R131 to R133). -/

namespace Sys2Proof.Machine

/-- The eleven events (R131). -/
inductive Event where
  | fault | overflow | halt | detached | purged | drained | stale | exhausted | through | shutdownDone | escalated
  deriving DecidableEq, Repr

/-- The event's bit in the layout of R157. -/
def Event.bit : Event → Nat
  | .fault => 0
  | .overflow => 1
  | .halt => 2
  | .detached => 3
  | .purged => 4
  | .drained => 5
  | .stale => 6
  | .exhausted => 7
  | .through => 8
  | .shutdownDone => 9
  | .escalated => 10

/-- The word with the event's flag alone. -/
def Event.flag (e : Event) : EventWord := 1#11 <<< e.bit

/-- Is the flag set? -/
def State.eventSet (s : State) (e : Event) : Bool := s.events.getLsbD e.bit

/-- An occurrence of the event's cause sets its flag, or leaves it set (R131). -/
def State.raise (s : State) (e : Event) : State := { s with events := s.events ||| e.flag }

/-- ALERT is asserted while a flag is set and enabled (R132). -/
def State.alert (s : State) : Bool := (s.events &&& s.alertMask) != 0#11

/-- ACK EVENTS clears each named flag; positions outside the eleven are ignored (R133). -/
def State.acknowledge (s : State) (named : BitVec 16) : State :=
  { s with events := s.events &&& ~~~(named.setWidth 11) }

end Sys2Proof.Machine
end

