-- ==== Sys2Proof/Machine/Drain.lean ====
section
/-! DEFINITION. The Drain Engine and its arbiter (Chapter 4), and the issue on a granted tag (Chapter 5). -/

namespace Sys2Proof.Machine

/-! ## Urgency and Blocked-by -/

/-- The area's joined or former master waits in SYNC_WAIT (R62, first cause). -/
def State.syncWaits (s : State) (a : AreaId) : Bool :=
  match (s.area a).master with
  | none => false
  | some m =>
    match s.context m with
    | .syncWait _ => true
    | .idle | .postingWait _ | .strictWait _ | .throughWait _ _ | .readWait _ _ => false

/-- The area's joined master waits in POSTING_WAIT or STRICT_WAIT (R62, second and third cause). In DETACHING the area has a
former master only. -/
def State.writeWaits (s : State) (a : AreaId) : Bool :=
  ((s.area a).state == .joined || (s.area a).state == .halted) &&
    match (s.area a).master with
    | none => false
    | some m =>
      match s.context m with
      | .postingWait _ | .strictWait _ => true
      | .idle | .throughWait _ _ | .readWait _ _ | .syncWait _ => false

/-- The head of another area waits, under R57, on a live entry of this area for its line (R62, last cause). -/
def State.holdsUpHead (s : State) (a : AreaId) : Bool :=
  allAreas.any fun b => b != a &&
    match (s.area b).head with
    | none => false
    | some h => (s.area a).holdsLineBefore h.line h.place

/-- The area is urgent while one of the causes of R62 holds. Urgency is not stored. -/
def State.urgent (s : State) (a : AreaId) : Bool :=
  s.syncWaits a || s.writeWaits a || s.holdList.any (s.waitsOn a) || (s.area a).pendingOp.isSome ||
    (s.mode == .shutdown && !(s.area a).queue.isEmpty) || s.holdsUpHead a

/-- The first of two optional entries in the posting order, each with its area. -/
def earlier (x y : Option (AreaId × Entry)) : Option (AreaId × Entry) :=
  match x, y with
  | none, y => y
  | some p, none => some p
  | some p, some q => if q.2.place < p.2.place then some q else some p

/-- The oldest entry of the area for the line posted before the place, with its area. -/
def State.olderIn (s : State) (a : AreaId) (line : Line) (place : Nat) : Option (AreaId × Entry) :=
  ((s.area a).queue.find? fun e => e.line == line && decide (e.place < place)).map fun e => (a, e)

/-- Blocked-by: the other area whose entry for the head's line, posted before the head, was posted first (R64). -/
def State.blockedBy (s : State) (a : AreaId) : Option AreaId :=
  match (s.area a).head with
  | none => none
  | some h => ((allAreas.filter fun b => b != a).foldl (fun best b => earlier best (s.olderIn b h.line h.place)) none).map Prod.fst

/-! ## Linger -/

/-- The area's linger timer: the time at which it expires, or none while it is idle (R60); exact, log 25. -/
def State.lingerTimer (s : State) (a : AreaId) : Option Nat :=
  match (s.area a).head with
  | none => none
  | some h =>
    if h.isHeld && decide ((s.area a).linger ≠ 0) && decide (s.now < h.lingerStart + (s.area a).linger)
    then some (h.lingerStart + (s.area a).linger) else none

/-- Is the head eligible by linger (R59, R61)? -/
def State.lingered (s : State) (a : AreaId) (h : Entry) : Bool :=
  !h.isHeld || decide ((s.area a).linger = 0) || decide (h.lingerStart + (s.area a).linger ≤ s.now) ||
    (decide ((s.area a).highWater ≠ 0) && decide ((s.area a).highWater ≤ (s.area a).occupancy)) || s.urgent a

/-! ## The offer of a head -/

/-- The caps of R56. -/
def State.withinCaps (s : State) (a : AreaId) : Bool :=
  ((s.area a).state == .joined || (s.area a).state == .detaching) &&
    decide ((s.area a).issuedCount < Config.issuedLimit) && decide (s.drainTagCount < Config.drainTagLimit)

/-- The line order of R57. -/
def State.lineOrder (s : State) (a : AreaId) (h : Entry) : Bool :=
  !s.lineBusy h.line && !(allAreas.any fun b => b != a && (s.area b).holdsLineBefore h.line h.place) &&
    !s.throughBefore h.line h.place

/-- The strict barrier of R58: every older entry of the area has retired. -/
def State.strictClear (s : State) (a : AreaId) (h : Entry) : Bool := !h.strict || !(s.area a).holdsBefore h.place

/-- The head of the area is offered to the arbiter (R55 to R59). -/
def State.offered (s : State) (a : AreaId) : Bool :=
  match (s.area a).head with
  | none => false
  | some h => s.withinCaps a && s.lineOrder a h && s.strictClear a h && s.lingered a h

/-! ## The arbiter -/

/-- A claimant of the arbiter (R65). A request being taken stands as the last place of the Hold List while it is taken (log 21). -/
inductive Claimant where
  | area (a : AreaId)
  | master (m : MasterId)
  deriving DecidableEq, Repr

/-- Areas in the area order of R67. -/
def State.areaOrder (s : State) : List AreaId :=
  match s.arbitration with
  | .fixed => allAreas
  | .roundRobin => allAreas.filter (fun a => s.pointer ≤ a) ++ allAreas.filter (fun a => a < s.pointer)

/-- The first area of the class in the area order (R67). -/
def State.firstArea (s : State) (inClass : AreaId → Bool) : Option Claimant :=
  (s.areaOrder.find? inClass).map Claimant.area

/-- May this Hold List place be granted: released, waiting for a tag, its line not busy (R49, R68)? -/
def State.grantable (s : State) (p : HoldPlace) : Bool :=
  p.released &&
    match (s.context p.master).heldLine with
    | some line => !s.lineBusy line
    | none => false

/-- Class 1, the starvation guard: urgent areas with an offered head, when no tag is BUSY with a posted entry (R66). -/
def State.guardClaim (s : State) : Option Claimant :=
  if allTags.any (fun t => (s.tag t).busyWithEntry) then none
  else s.firstArea fun a => s.urgent a && s.offered a

/-- Class 2, master requests in arrival order (R66, R68). -/
def State.masterClaim (s : State) : Option Claimant :=
  (s.holdList.find? s.grantable).map fun p => Claimant.master p.master

/-- Class 3, urgent areas (R66). -/
def State.urgentClaim (s : State) : Option Claimant := s.firstArea fun a => s.urgent a && s.offered a

/-- Class 4, other areas (R66). -/
def State.otherClaim (s : State) : Option Claimant := s.firstArea fun a => !s.urgent a && s.offered a

/-- The claimant that the arbiter chooses: the first class that has one supplies the grant (R66). -/
def State.chosen (s : State) : Option Claimant :=
  s.guardClaim.or (s.masterClaim.or (s.urgentClaim.or s.otherClaim))

/-- Does the memory controller signal ready (R151)? -/
def isReady : Ready → Bool
  | .withdrawn => false
  | .ready | .readyFor _ => true

/-- The ready line after the acceptance of one request (R151). -/
def afterAcceptance : Ready → Ready
  | .withdrawn => .withdrawn
  | .ready => .ready
  | .readyFor 0 => .withdrawn
  | .readyFor (n + 1) => .readyFor n

/-- The memory port is able to accept a request (R65, R151); it takes nothing while RESET# is asserted (R143). -/
def State.canAccept (s : State) : Bool := isReady s.memoryReady && !s.resetHeld

/-- The memory controller accepts the request (R151): the tag becomes BUSY with this user and request, and its timer starts with the
timeout in force (R76, R77). -/
def State.occupy (s : State) (t : TagId) (user : TagUser) (request : MemRequest) : State :=
  { s.setTag t (.busy { user := user, request := request, started := s.now, timeout := s.timeout }) with
    memoryReady := afterAcceptance s.memoryReady }

/-- The area's number after this one, 0 after 11 (R67). -/
def nextArea (a : AreaId) : AreaId := a + 1

/-- The round-robin pointer moves (R67). -/
def State.movePointer (s : State) (p : AreaId) : State := { s with pointer := p }

/-- The request of an entry: unmarked bytes are sent as 00H (R152). -/
def Entry.request (e : Entry) : MemRequest :=
  { kind := .write, line := e.line, mask := e.mask, data := keepMarked e.mask e.data }

/-- The issue of an area's head on a tag (R69). The round-robin pointer moves at every grant to an area (R67), in SHUTDOWN mode too
(R72; log 32). -/
def State.issueHead (s : State) (a : AreaId) (t : TagId) : State :=
  match (s.area a).head with
  | none => s
  | some h =>
    let s := s.occupy t (.entry a h.place) h.request
    (s.updateEntry a h.place fun e => { e with state := .issued t, attempts := e.attempts + 1 }).movePointer (nextArea a)

/-- The issue of a master request from the Hold List on a tag (R37, R51). -/
def State.issueMaster (s : State) (m : MasterId) (t : TagId) : State :=
  match s.context m with
  | .throughWait w .inHold =>
    ((s.occupy t (.master m) { kind := .write, line := w.line, mask := w.mask, data := keepMarked w.mask w.data }).leaveHold m).setContext m
      (.throughWait w (.issued t))
  | .readWait r .inHold =>
    ((s.occupy t (.master m) { kind := .read, line := r.line, mask := r.mask, data := zeroData }).leaveHold m).setContext m
      (.readWait r (.issued t))
  | .throughWait _ (.issued _) | .readWait _ (.issued _) | .idle | .postingWait _ | .strictWait _ | .syncWait _ => s

/-- The issue of the chosen claimant on the granted tag: grant and issue are one event (R65). -/
def State.issue (s : State) (c : Claimant) (t : TagId) : State :=
  match c with
  | .area a => s.issueHead a t
  | .master m => s.issueMaster m t

/-- One grant, if a tag is FREE, the memory port can accept and a claimant is offered (R65). -/
def State.grantOnce (s : State) : Option State :=
  if s.canAccept then
    match s.lowestFree, s.chosen with
    | some t, some c => some (s.issue c t)
    | _, _ => none
  else none

/-- Up to n grants, one at a time, each decided against the state the last has left (R65). -/
def State.grants : Nat → State → State
  | 0, s => s
  | n + 1, s =>
    match s.grantOnce with
    | none => s
    | some s' => State.grants n s'

/-- The arbiter acts: it makes grants for as long as it can (R65). Each grant takes one of the eight tags, so eight suffice. -/
def State.arbitrate (s : State) : State := State.grants 8 s

end Sys2Proof.Machine
end

