-- ==== Sys2Proof/Machine/Faults.lean ====
section
/-! DEFINITION. Answers to SYNC, the Fault Unit, and what follows a retirement (Chapters 6, 7, 8, 9). -/

namespace Sys2Proof.Machine

/-! ## The master's account -/

/-- A charge of k entries (R98): the count saturates at 255 (R5), and an absent first fault is set. -/
def State.charge (s : State) (m : MasterId) (k : Nat) (line : Line) (cause : FaultCause) : State :=
  let r := s.master m
  s.setMaster m
    { r with
      pendingCount := min Config.pendingMax (r.pendingCount + k)
      firstFault := r.firstFault.or (some { line := line, cause := cause }) }

/-- The account is cleared: count 0, first fault removed (R93, R98). -/
def State.clearAccount (s : State) (m : MasterId) : State :=
  s.setMaster m { s.master m with pendingCount := 0, firstFault := none }

/-- DEFERRED from the master record, which it clears (R93, R95). -/
def State.answerDeferred (s : State) (m : MasterId) : State :=
  (s.answer m (.deferred (s.master m).pendingCount (s.master m).firstFault)).clearAccount m

/-- The answer of a SYNC that completes, or is answered at once from the master record (R93). -/
def State.answerSync (s : State) (m : MasterId) : State :=
  if (s.master m).pendingCount = 0 then s.answer m .okay else s.answerDeferred m

/-- The answer of a SYNC on the halt terms (R95). -/
def State.answerHaltTerms (s : State) (m : MasterId) : State :=
  if (s.master m).pendingCount = 0 then s.answer m (.error .halted) else s.answerDeferred m

/-! ## Records and escalation -/

/-- How an attempt at the memory fails (R78, R84): FAIL, DECODE, or the expiry of its timer. -/
inductive Failure where
  | fail | decode | expiry
  deriving DecidableEq, Repr

/-- The cause a record and a charge name (R102). -/
def Failure.cause : Failure → FaultCause
  | .fail => .fail
  | .decode => .decode
  | .expiry => .timeout

/-- The reason the master is given in its own answer (R31, R39, R52). -/
def Failure.reason : Failure → Reason
  | .fail => .memory
  | .decode => .decode
  | .expiry => .timeout

/-- An escalation asserts RSTREQ, or leaves it asserted, and sets ESCALATED (R115). -/
def State.escalation (s : State) : State := { s with rstreq := true }.raise .escalated

/-- A record made while the Fault Log holds sixteen is lost (R105). -/
def State.loseRecord (s : State) (entries : Nat) : State :=
  let s := { s with overflowCount := min Config.overflowMax (s.overflowCount + entries) }.raise .overflow
  if s.overflowEscalates then s.escalation else s

/-- Makes a record: it takes the counter's value as its number, is stored as the newest or lost, and FAULT is set
(R102, R104, R105, R116). -/
def State.makeRecord (s : State) (r : FaultRecord) : State :=
  let r := { r with number := s.recordCounter }
  let s := { s with recordCounter := s.recordCounter + 1 }.raise .fault
  if s.faultLog.length < Config.logRecords then { s with faultLog := s.faultLog ++ [r] } else s.loseRecord r.entries

/-- The record of a failed through-write: DIRECT, area absent, attempts 1, entries 1 (R39). -/
def State.recordThrough (s : State) (m : MasterId) (line : Line) (mask : Mask) (cause : FaultCause) : State :=
  s.makeRecord
    { number := 0, master := m, area := none, line := line, mask := some mask, cause := cause, attempts := 1, entries := 1,
      disposition := .direct, escalated := false }

/-- The failure record of a posted entry (R102, R103 step 1), numbered when it is made. -/
def AreaRec.failureRecord (r : AreaRec) (a : AreaId) (m : MasterId) (e : Entry) (cause : FaultCause) : FaultRecord :=
  { number := 0, master := m, area := some a, line := e.line, mask := some e.mask, cause := cause, attempts := e.attempts,
    entries := 1, disposition := if e.strict then .direct else .pending, escalated := r.escalate == .resetRequest }

/-- Drops the area's entries that `drop` names, if any: they retire, and one summary record of n entries is made and charged
(R110, R112). -/
def State.dropEntries (s : State) (a : AreaId) (cause : FaultCause) (drop : Entry → Bool) : State :=
  match (s.area a).queue.filter drop, (s.area a).master with
  | e :: es, some m =>
    let s := s.setQueue a ((s.area a).queue.filter fun x => !drop x)
    let s := s.makeRecord
      { number := 0, master := m, area := some a, line := e.line, mask := none, cause := cause, attempts := 0,
        entries := es.length + 1, disposition := .pending, escalated := false }
    s.charge m (es.length + 1) e.line cause
  | _, _ => s

/-- Answers a strict entry's master, which waits for it in STRICT_WAIT (R31, R32). -/
def State.answerStrict (s : State) (a : AreaId) (place : Nat) (body : AnswerBody) : State :=
  match (s.area a).master with
  | none => s
  | some m => if s.context m = .strictWait place then s.answer m body else s

/-! ## The halt -/

/-- A pending DRAIN ends at the halt with outcome CUT_SHORT (R108, R130). -/
def State.cutDrain (s : State) (a : AreaId) : State :=
  match (s.area a).pendingOp with
  | some (.drain _) => (s.setArea a { s.area a with pendingOp := none, lastOutcome := .cutShort }).raise .drained
  | some (.purge _) | some .detach | none => s

/-- Is it a strict entry that no issue has taken (R32)? -/
def Entry.strictUnissued (e : Entry) : Bool := e.strict && !e.isIssued

/-- Strict entries in HELD or REISSUE are removed and their master answered ERROR HALTED (R32). -/
def State.removeStrict (s : State) (a : AreaId) : State :=
  ((s.area a).queue.filter Entry.strictUnissued).foldl (fun s e => s.answerStrict a e.place (.error .halted))
    (s.setQueue a ((s.area a).queue.filter fun e => !e.strictUnissued))

/-- The master's write in POSTING_WAIT is answered ERROR HALTED (R28), its SYNC in SYNC_WAIT on the halt terms (R96). -/
def State.haltMaster (s : State) (a : AreaId) : State :=
  match (s.area a).master with
  | none => s
  | some m =>
    match s.context m with
    | .postingWait _ => s.answer m (.error .halted)
    | .syncWait _ => s.answerHaltTerms m
    | .idle | .strictWait _ | .throughWait _ _ | .readWait _ _ => s

/-- Unreleased reads and through-writes in the Hold List that wait on the halted area are answered ERROR HALTED (R38, R50). -/
def State.refuseHolds (s : State) (a : AreaId) : State :=
  (s.holdList.filter (s.waitsOn a)).foldl (fun s p => s.answer p.master (.error .halted))
    { s with holdList := s.holdList.filter fun p => !s.waitsOn a p }

/-- A JOINED area becomes HALTED, with every effect of R109 in the same change (R108). -/
def State.haltArea (s : State) (a : AreaId) : State :=
  let s := (s.setArea a { s.area a with state := .halted }).raise .halt
  (((s.cutDrain a).removeStrict a).haltMaster a).refuseHolds a

/-! ## The final failure -/

/-- DISCARD drops the area's non-strict entries in HELD and REISSUE (R110). -/
def Entry.droppable (e : Entry) : Bool := !e.strict && !e.isIssued

/-- The area's fault policy, read when the final failure is handled (R107, R108, R110). A HALT policy acts in JOINED alone. -/
def State.applyPolicy (s : State) (a : AreaId) : State :=
  match (s.area a).policy with
  | .carryOn => s
  | .halt => if (s.area a).state = .joined then s.haltArea a else s
  | .discard => s.dropEntries a .discarded Entry.droppable

/-- Steps 1 to 4 of R103: record, charge or answer, retirement, FAULT (which every record sets). -/
def State.recordFailure (s : State) (a : AreaId) (m : MasterId) (e : Entry) (how : Failure) : State :=
  let s := s.makeRecord ((s.area a).failureRecord a m e how.cause)
  let s := s.removeEntry a e.place
  if e.strict then s.answerStrict a e.place (.error how.reason) else s.charge m 1 e.line how.cause

/-- Step 6 of R103: escalation under the area's setting, read when the failure is handled. -/
def State.escalateArea (s : State) (a : AreaId) : State :=
  if (s.area a).escalate = .resetRequest then s.escalation else s

/-- A final failure of a posted entry, as one change (R82, R103). -/
def State.finalFailure (s : State) (a : AreaId) (e : Entry) (how : Failure) : State :=
  match (s.area a).master with
  | none => s.removeEntry a e.place
  | some m => ((s.recordFailure a m e how).applyPolicy a).escalateArea a

end Sys2Proof.Machine
end

