-- ==== Sys2Proof/Machine/Posting.lean ====
section
/-! DEFINITION. The Posting Unit and the entry of requests into the Hold List (Chapters 2 and 3). -/

namespace Sys2Proof.Machine

/-! ## Requests that need the memory port -/

/-- The master's context takes the place at the end of the Hold List (R47). -/
def State.joinHold (s : State) (m : MasterId) (released : Bool) : State :=
  { s with holdList := s.holdList ++ [{ master := m, released := released }] }

/-- The claim of a request being taken, or its wait (R36, R46). The master's context holds the request. A request whose line is
clear stands behind every context of the list as a claimant while the arbiter acts (R68, log 21): granted, it never takes a
place; otherwise it keeps one, released as it enters (R48), or is answered RETRY if all eight are taken. A request whose line
is not clear takes a place unreleased, or is answered RETRY. -/
def State.enterHold (s : State) (m : MasterId) : State :=
  if s.lineClear (s.context m) then
    let s' := (s.joinHold m true).arbitrate
    if s'.holdList.length ≤ Config.holdPlaces then s' else (s'.leaveHold m).answer m .retry
  else if s.holdList.length < Config.holdPlaces then
    (s.joinHold m false).arbitrate
  else s.answer m .retry

/-- The master's first through-write sets its through-seen flag and THROUGH (R34). -/
def State.markThrough (s : State) (m : MasterId) : State :=
  if (s.master m).throughSeen then s
  else (s.setMaster m { s.master m with throughSeen := true }).raise .through

/-- A write is taken as a through-write (R34 to R36): it takes its mark, is refused if a HALTED area holds an entry for its line
(R35), and otherwise is issued or waits (R36). -/
def State.takeThrough (s : State) (m : MasterId) (line : Line) (mask : Mask) (data : LineData) : State :=
  let s := s.markThrough m
  if s.lineHalted line then s.answer m (.error .halted)
  else (s.setContext m (.throughWait { line := line, mask := mask, data := data, mark := s.nextPlace } .inHold)).enterHold m

/-! ## Merging and new entries -/

/-- Another area holds a live entry for the line posted after the place (R23). -/
def State.newerElsewhere (s : State) (a : AreaId) (line : Line) (place : Nat) : Bool :=
  allAreas.any fun b => b != a && (s.area b).queue.any fun e => e.line == line && decide (place < e.place)

/-- A PURGE is pending on the area and the entry was posted before its mark (R23). -/
def AreaRec.purgeCovers (r : AreaRec) (place : Nat) : Bool :=
  match r.pendingOp with
  | some (.purge mark) => decide (place < mark)
  | some (.drain _) | some .detach | none => false

/-- The tail entry into which the write is merged, if R22 and R23 allow it. -/
def State.mergeTarget (s : State) (a : AreaId) (w : WriteReq) : Option Entry :=
  match (s.area a).queue.getLast? with
  | none => none
  | some e =>
    if !w.strict && (s.area a).merge && e.isHeld && e.line == w.line && !e.strict && !s.newerElsewhere a w.line e.place &&
        !s.throughAfter w.line e.place && !(s.area a).purgeCovers e.place
    then some e else none

/-- The merge changes the entry's mask and data alone (R24). -/
def Entry.merged (e : Entry) (w : WriteReq) : Entry :=
  { e with mask := e.mask ||| w.mask, data := overlay w.mask w.data e.data }

/-- The tail takes the write in place (R24). -/
def State.mergeTail (s : State) (a : AreaId) (w : WriteReq) (e : Entry) : State :=
  s.setQueue a ((s.area a).queue.dropLast ++ [e.merged w])

/-- The entry that a write posts now (R25, R30). -/
def State.freshEntry (s : State) (w : WriteReq) : Entry :=
  { line := w.line, mask := w.mask, data := w.data, place := s.nextPlace, strict := w.strict, state := .held, attempts := 0,
    lingerStart := s.now }

/-- The new entry joins the tail of the area's queue and takes the next place of the posting order (R9, R11, R25). -/
def State.postEntry (s : State) (a : AreaId) (w : WriteReq) : State :=
  { s.setQueue a ((s.area a).queue ++ [s.freshEntry w]) with nextPlace := s.nextPlace + 1 }

/-- Steps 4 and 5 of R19, for a master whose joined area is JOINED: merge, new entry, strict posting, or the posting wait
(R22 to R26, R30). -/
def State.decideJoined (s : State) (m : MasterId) (a : AreaId) (w : WriteReq) : State :=
  match s.mergeTarget a w with
  | some e => (s.mergeTail a w e).answer m .okay
  | none =>
    if (s.area a).occupancy < (s.area a).size then
      if w.strict then (s.postEntry a w).setContext m (.strictWait s.nextPlace) else (s.postEntry a w).answer m .okay
    else s.setContext m (.postingWait w)

/-- The waiting write of the area's master is decided again once a slot of its JOINED area has freed (R27, log 28). -/
def State.retryPosting (s : State) (a : AreaId) : State :=
  match (s.area a).master with
  | none => s
  | some m =>
    match s.context m with
    | .postingWait w =>
      if (s.area a).state = .joined ∧ (s.area a).occupancy < (s.area a).size then s.decideJoined m a w else s
    | .idle | .strictWait _ | .throughWait _ _ | .readWait _ _ | .syncWait _ => s

end Sys2Proof.Machine
end

