-- ==== Sys2Proof/Machine/Settle.lean ====
section
/-! DEFINITION. What a retirement sets off (R12) and how a change ends: the posting wait, SYNC, DRAIN, PURGE and DETACH of the area,
the Hold List, the end of a soft reset, the order of the answers, and the arbiter. -/

namespace Sys2Proof.Machine

/-! ## The area's waiters -/

/-- A SYNC of this master waits on this area: its joined or detaching area (R92). -/
def State.syncArea (s : State) (m : MasterId) : Option AreaId := (s.master m).joinedArea.or (s.master m).detachingArea

/-- The waiting SYNC is answered when no live entry posted by its master before its mark remains (R92, R93). -/
def State.completeSync (s : State) (m : MasterId) : State :=
  match s.context m, s.syncArea m with
  | .syncWait mark, some a => if (s.area a).holdsBefore mark then s else s.answerSync m
  | .syncWait _, none => s.answerSync m
  | _, _ => s

/-- The waiting SYNC of the area's master is tested (R12, R92). -/
def State.settleSync (s : State) (a : AreaId) : State :=
  match (s.area a).master with
  | none => s
  | some m => s.completeSync m

/-- What becomes of the pending long operation when a DRAIN or PURGE ends: in a DETACHING area it becomes DETACH (R137, R138). -/
def AreaRec.opAfter (r : AreaRec) : Option LongOp := if r.state = .detaching then some .detach else none

/-- A pending DRAIN ends COMPLETE when no entry posted before its mark is live (R130). -/
def State.endDrain (s : State) (a : AreaId) : State :=
  match (s.area a).pendingOp with
  | some (.drain mark) =>
    if (s.area a).holdsBefore mark then s
    else (s.setArea a { s.area a with pendingOp := (s.area a).opAfter, lastOutcome := .complete }).raise .drained
  | some (.purge _) | some .detach | none => s

/-- The area becomes DETACHING and its master loses its join and gains the area as its detaching area (R15, R137, R139). -/
def State.beginDetach (s : State) (a : AreaId) (op : LongOp) : State :=
  let s' := s.setArea a { s.area a with state := .detaching, pendingOp := some op }
  match (s.area a).master with
  | none => s'
  | some m => s'.setMaster m { s'.master m with joinedArea := none, detachingArea := some a }

/-- The end of a PURGE (R114); of a HALTED area during a soft reset (R139). -/
def State.finishPurge (s : State) (a : AreaId) : State :=
  let s := (s.setArea a { s.area a with pendingOp := (s.area a).opAfter, lastOutcome := .complete }).raise .purged
  if (s.area a).state = .halted then
    if s.mode = .shutdown then s.beginDetach a .detach else s.setArea a { s.area a with state := .joined }
  else s

/-- A pending PURGE ends when no entry posted before its mark is live (R114). -/
def State.endPurge (s : State) (a : AreaId) : State :=
  match (s.area a).pendingOp with
  | some (.purge mark) => if (s.area a).holdsBefore mark then s else s.finishPurge a
  | some (.drain _) | some .detach | none => s

/-- The area record when its detach completes (R17): it keeps its size and its settings. -/
def AreaRec.detached (r : AreaRec) : AreaRec :=
  let r' := { r with state := .free, master := none }
  if r.pendingOp = some .detach then { r' with pendingOp := none, lastOutcome := .complete } else r'

/-- A DETACHING area completes its detach when its queue is empty (R17). -/
def State.endDetach (s : State) (a : AreaId) : State :=
  if (s.area a).state = .detaching ∧ (s.area a).queue = [] then
    let s' := s.setArea a (s.area a).detached
    (match (s.area a).master with
    | none => s'
    | some m => s'.setMaster m { s'.master m with detachingArea := none }).raise .detached
  else s

/-- The news of a retirement in the area, in the order in which R12 lists those told (log 12): the posting wait, the SYNC, the
DRAIN, the PURGE and the detach. A strict entry's master has been answered with the retirement itself. -/
def State.settleArea (s : State) (a : AreaId) : State :=
  ((((s.retryPosting a).settleSync a).endDrain a).endPurge a).endDetach a

/-! ## The end of a soft reset -/

/-- Every area is FREE and no tag is BUSY (R141). -/
def State.softResetDone (s : State) : Bool :=
  (allAreas.all fun a => (s.area a).state == .free) && (allTags.all fun t => !(s.tag t).isBusy)

/-- A STALE tag becomes FREE (R88, R141). -/
def TagState.recovered : TagState → TagState
  | .stale _ => .free
  | .free => .free
  | .busy t => .busy t

/-- Every STALE tag becomes FREE (R88, R141). -/
def State.freeStale (s : State) : State := { s with tags := Vector.ofFn fun i => (s.tags[i]).recovered }

/-- An area record at the end of a soft reset: reset values, but for the last outcome of an area that took part (R3, R18, R141). -/
def AreaRec.afterSoftReset (r : AreaRec) : AreaRec :=
  { AreaRec.reset with lastOutcome := if r.inShutdown then r.lastOutcome else .nothing }

/-- The Reset Record at the end of a soft reset (R145). -/
def State.softRecord (s : State) : ResetRecord :=
  { cause := .soft, heldLost := 0, issuedUncertain := 0, unreadFaults := s.faultLog.length, overflow := s.overflowCount,
    requested := s.rstreq }

/-- The soft reset ends (R141), as one change. -/
def State.finishSoftReset (s : State) : State :=
  { s.freeStale with
    areas := Vector.ofFn fun i => (s.areas[i]).afterSoftReset
    timeout := Config.resetTimeout
    arbitration := .roundRobin
    pointer := 0
    overflowEscalates := false
    alertMask := Config.resetAlertMask
    resetRecord := s.softRecord
    mode := .running }.raise .shutdownDone

/-- The soft reset ends at the first moment at which its condition holds (R141). -/
def State.testSoftReset (s : State) : State :=
  if s.mode = .shutdown ∧ s.softResetDone then s.finishSoftReset else s

/-! ## The end of a change -/

/-- How a change ends that began with n answers in the response queue: held requests are tested for release (R48), its answers stand
in ascending order of master number (R148), the soft reset is tested for its end (R141), and the arbiter acts (R65). The test
comes before the grants, since the soft reset ends at the first moment at which no tag is BUSY. -/
def State.conclude (s : State) (n : Nat) : State := ((s.releaseHolds.orderAnswers n).testSoftReset).arbitrate

end Sys2Proof.Machine
end

