-- ==== Sys2Proof/Machine/Fabric.lean ====
section
/-! DEFINITION. The fabric port's commands: WRITE, READ, SYNC, UNKNOWN_KIND_REQUEST, ANSWER_DELIVERY (Chapters 2, 3, 6, 10). -/

namespace Sys2Proof.Machine

/-- What a step answers. -/
abbrev Result := Host.Outcome State Fault Refusal

/-- The one-request rule (R6): the request of a master whose context is not IDLE is answered ERROR PROTOCOL, and nothing else
changes. A request presented while the port is not ready is not taken (R148, log 7). -/
def State.takeRequest (s : State) (m : MasterId) (k : State → State) : State :=
  if s.fabricReady then
    if s.context m = .idle then k s else s.send m (.error .protocol)
  else s

/-! ## WRITE -/

/-- Steps 2 to 6 of R19. -/
def State.decideWrite (s : State) (m : MasterId) (w : WriteReq) : State :=
  if w.mask = 0 then s.send m .okay
  else
    match (s.master m).joinedArea with
    | some a => if (s.area a).state = .halted then s.send m (.error .halted) else (s.decideJoined m a w).arbitrate
    | none => s.takeThrough m w.line w.mask w.data

/-- WRITE (R19 to R39). Only the bytes marked in the mask are kept. -/
def execWrite (m : MasterId) (line : Line) (mask : Mask) (strict : Bool) (data : LineData) (s : State) : Result :=
  .next (s.takeRequest m fun s =>
    s.decideWrite m { line := line, mask := mask, data := keepMarked mask data, strict := strict })

/-! ## READ -/

/-- The later of two optional entries in the posting order (R9). -/
def laterEntry (x : Option Entry) (y : Entry) : Option Entry :=
  match x with
  | none => some y
  | some e => if e.place < y.place then some y else some e

/-- The entry that was posted latest (R43). -/
def newestEntry (es : List Entry) : Option Entry := es.foldl laterEntry none

/-- The live entry that supplies byte i of the line: the latest of those whose mask marks it (R43). -/
def State.supplier (s : State) (line : Line) (i : Nat) : Option Entry :=
  newestEntry ((s.entriesFor line).filter fun e => e.mask.getLsbD i)

/-- The read is fully covered (R42). -/
def State.covered (s : State) (line : Line) (mask : Mask) : Bool :=
  ((List.range 32).all fun i => !mask.getLsbD i || (s.entriesFor line).any fun e => e.mask.getLsbD i) &&
    !s.throughUnfinished line

/-- The bytes of a forwarded read (R43). -/
def State.forwarded (s : State) (line : Line) (mask : Mask) : LineData :=
  Vector.ofFn fun i =>
    if mask.getLsbD i then
      match s.supplier line i with
      | some e => e.data[i]
      | none => 0#8
    else 0#8

/-- Steps 2 to 7 of R40. -/
def State.decideRead (s : State) (m : MasterId) (line : Line) (mask : Mask) : State :=
  if mask = 0 then s.send m (.okayData zeroData)
  else if s.covered line mask then s.send m (.okayData (s.forwarded line mask))
  else if s.lineHalted line then s.send m (.error .halted)
  else (s.setContext m (.readWait { line := line, mask := mask } .inHold)).enterHold m

/-- READ (R40 to R53). -/
def execRead (m : MasterId) (line : Line) (mask : Mask) (s : State) : Result :=
  .next (s.takeRequest m fun s => s.decideRead m line mask)

/-! ## SYNC -/

/-- The context enters SYNC_WAIT with its mark, and the area is urgent from then on (R91, R92). -/
def State.waitSync (s : State) (m : MasterId) : State := (s.setContext m (.syncWait s.nextPlace)).arbitrate

/-- Steps 2 to 4 of R91. -/
def State.decideSync (s : State) (m : MasterId) : State :=
  match (s.master m).joinedArea, (s.master m).detachingArea with
  | some a, _ =>
    if (s.area a).state = .halted then s.answerHaltTerms m
    else if (s.area a).queue.isEmpty then s.answerSync m else s.waitSync m
  | none, some a => if (s.area a).queue.isEmpty then s.answerSync m else s.waitSync m
  | none, none => s.answerSync m

/-- SYNC (R91 to R96). -/
def execSync (m : MasterId) (s : State) : Result := .next (s.takeRequest m fun s => s.decideSync m)

/-! ## Unlisted kinds and answers -/

/-- UNKNOWN_KIND_REQUEST: ERROR PROTOCOL, whatever the master's context, and nothing else changes (R147). -/
def execUnknownKindRequest (m : MasterId) (_kind : BitVec 2) (s : State) : Result :=
  .next (if s.fabricReady then s.send m (.error .protocol) else s)

/-- ANSWER_DELIVERY: the oldest answer leaves the response queue (R148). Nothing is delivered while RESET# is asserted (R143). -/
def execAnswerDelivery (s : State) : Result :=
  .next (s.unlessReset fun s => { s with responses := s.responses.tail })

end Sys2Proof.Machine
end

