-- ==== Sys2Proof/Machine/MemoryPort.lean ====
section
/-! DEFINITION. The memory port's commands: ARBITER_GRANT, MEMORY_READY, COMPLETION, EXPIRY, LINGER_EXPIRY (Chapters 4, 5, 10). -/

namespace Sys2Proof.Machine

/-! ## Results of an attempt -/

/-- The result of a completion (R153). -/
inductive MemResult where
  | done
  | failed (how : Failure)
  deriving DecidableEq, Repr

/-- The 2-bit result field: 0 DONE, 1 FAIL, 2 DECODE; the unlisted 3 is taken as FAIL (R153, R156). -/
def memResult (code : BitVec 2) : MemResult :=
  if code = 0#2 then .done else if code = 2#2 then .failed .decode else .failed .fail

/-- The entry returns to REISSUE: its tag is removed, its attempts are kept (R10, R81). -/
def State.reissueEntry (s : State) (a : AreaId) (e : Entry) : State :=
  s.updateEntry a e.place fun x => { x with state := .reissue }

/-- The entry retires on DONE; a strict entry's master is answered OKAY (R31, R80). -/
def State.retireDone (s : State) (a : AreaId) (e : Entry) : State :=
  let s := s.removeEntry a e.place
  (if e.strict then s.answerStrict a e.place .okay else s).settleArea a

/-- A strict entry of a HALTED area that would return to REISSUE is removed, its master answered ERROR HALTED, without a record
(R32, R81). -/
def State.removeHaltedStrict (s : State) (a : AreaId) (e : Entry) : State :=
  ((s.removeEntry a e.place).answerStrict a e.place (.error .halted)).settleArea a

/-- The failure of an attempt: retry or final failure (R81, R82). DECODE is final at once. -/
def State.attemptFailed (s : State) (a : AreaId) (e : Entry) (how : Failure) : State :=
  if how = .decode ∨ (s.area a).purgePending ∨ (s.area a).retry < e.attempts then (s.finalFailure a e how).settleArea a
  else if e.strict ∧ (s.area a).state = .halted then s.removeHaltedStrict a e
  else s.reissueEntry a e

/-- The failure of a read or an issued through-write: never issued again; a through-write makes a DIRECT record, a read none
(R39, R52, R83). -/
def State.requestFailed (s : State) (m : MasterId) (how : Failure) : State :=
  match s.context m with
  | .throughWait w (.issued _) => (s.recordThrough m w.line w.mask how.cause).answer m (.error how.reason)
  | .readWait _ (.issued _) => s.answer m (.error how.reason)
  | .throughWait _ .inHold | .readWait _ .inHold | .idle | .postingWait _ | .strictWait _ | .syncWait _ => s

/-- DONE for a read or an issued through-write (R39, R52): the data of the read's requested bytes, 00H elsewhere. -/
def State.requestDone (s : State) (m : MasterId) (data : LineData) : State :=
  match s.context m with
  | .throughWait _ (.issued _) => s.answer m .okay
  | .readWait r (.issued _) => s.answer m (.okayData (keepMarked r.mask data))
  | .throughWait _ .inHold | .readWait _ .inHold | .idle | .postingWait _ | .strictWait _ | .syncWait _ => s

/-- The result is handed to the user of the tag (R78, R79 to R83). -/
def State.handResult (s : State) (user : TagUser) (result : MemResult) (data : LineData) : State :=
  match user with
  | .entry a place =>
    match (s.area a).entryAt place with
    | none => s
    | some e =>
      match result with
      | .done => s.retireDone a e
      | .failed how => s.attemptFailed a e how
  | .master m =>
    match result with
    | .done => s.requestDone m data
    | .failed how => s.requestFailed m how

/-! ## Commands -/

/-- ARBITER_GRANT: one grant, if one can be made (R65, log 3). -/
def execArbiterGrant (s : State) : Result := .next (s.unlessReset fun s => s.grantOnce.getD s)

/-- MEMORY_READY: the ready line as the controller drives it; its return to ready is an event for the arbiter (R65, R151). -/
def execMemoryReady (level : Ready) (s : State) : Result := .next ({ s with memoryReady := level }).arbitrate

/-- A completion by the state of its tag (R78): the answer of a BUSY tag's transaction, a late completion (R86), or discarded. -/
def State.takeCompletion (s : State) (t : TagId) (result : MemResult) (data : LineData) : State :=
  match s.tag t with
  | .busy tr => ((s.setTag t .free).handResult tr.user result data).conclude s.responses.length
  | .stale _ => (s.setTag t .free).arbitrate
  | .free => s

/-- COMPLETION (R78 to R83, R86, R89, R153). Nothing is taken while RESET# is asserted (R143). -/
def execCompletion (t : TagId) (result : BitVec 2) (data : LineData) (s : State) : Result :=
  .next (s.unlessReset fun s => s.takeCompletion t (memResult result) data)

/-- Each expiry sets STALE; one that leaves all eight tags STALE sets EXHAUSTED (R85). -/
def State.markStale (s : State) : State :=
  if allTags.all fun t => (s.tag t).isStale then (s.raise .stale).raise .exhausted else s.raise .stale

/-- The expiry of a BUSY tag's timer (R84): the tag becomes STALE and its user is handled as timed out. -/
def State.expireTag (s : State) (t : TagId) (tr : Transaction) : State :=
  (((s.setTag t (.stale tr.user.isEntry)).markStale).handResult tr.user (.failed .expiry) zeroData).conclude s.responses.length

/-- The time at which the transaction's timer runs out (R77); exact, log 25. -/
def Transaction.deadline (tr : Transaction) : Nat := tr.started + tr.timeout

/-! ## Time

The clock moves by one microsecond at a time, and no timer that has run out is left behind: it expires before the clock moves on
(R77, log 5). -/

/-- The timer of this tag, if it has run out, expires (R77). -/
def State.expireIfDue (s : State) (t : TagId) : State :=
  match s.tag t with
  | .busy tr => if tr.deadline ≤ s.now then s.expireTag t tr else s
  | .free | .stale _ => s

/-- Every timer that has run out expires, in rising tag order (log 5). -/
def State.expireDue (s : State) : State := allTags.foldl State.expireIfDue s

/-- The next microsecond begins; the timers that have run out by now expire before it. -/
def State.moveOn (s : State) : State := { s.expireDue with now := s.now + 1 }

/-- One microsecond passes (log 4): response timers that run out expire, and the arbiter acts on the heads whose linger time ends.
While RESET# is asserted the bridge stays at its values (R143). -/
def State.tick (s : State) : State :=
  if s.resetHeld then { s with now := s.now + 1 } else s.moveOn.expireDue.arbitrate

/-- This many microseconds pass. -/
def State.pass : Nat → State → State
  | 0, s => s
  | n + 1, s => State.pass n s.tick

/-- Time passes up to the beginning of this microsecond, if it lies ahead. -/
def State.reach (s : State) (time : Nat) : State := if time ≤ s.now then s else (State.pass (time - s.now - 1) s).moveOn

/-- The tag's timer runs out at its end, before any other that ends in the same microsecond (R77, log 5). It does not run for a FREE
or STALE tag. -/
def State.runOut (s : State) (t : TagId) : State :=
  match s.tag t with
  | .busy tr => (s.reach tr.deadline).expireTag t tr
  | .free | .stale _ => s

/-- EXPIRY (R79, R84). -/
def execExpiry (t : TagId) (s : State) : Result := .next (s.unlessReset fun s => s.runOut t)

/-- The area's linger timer runs out at its end, if it runs, and the arbiter acts (R60, R65, log 6). -/
def State.endLinger (s : State) (a : AreaId) : State :=
  match s.lingerTimer a with
  | some time => (s.reach time).arbitrate
  | none => s

/-- LINGER_EXPIRY (R60). -/
def execLingerExpiry (a : AreaId) (s : State) : Result := .next (s.unlessReset fun s => s.endLinger a)

end Sys2Proof.Machine
end

