-- ==== Sys2Proof/Machine/Internal.lean ====
section
/-! DEFINITION. The bridge's own steps as commands (log 2): each makes its test, has its effect where the condition holds, and
changes nothing where it does not. -/

namespace Sys2Proof.Machine

/-- POSTING_WAIT_RETRY (R27). -/
def execPostingWaitRetry (a : AreaId) (s : State) : Result :=
  .next (s.unlessReset fun s => (s.retryPosting a).arbitrate)

/-- The release of one master's context (R48). -/
def State.releaseOne (s : State) (m : MasterId) : State :=
  { s with holdList := s.holdList.map fun p =>
      if p.master = m ∧ s.lineClear (s.context m) then { p with released := true } else p }

/-- HOLD_RELEASE (R48): the released context is offered to the arbiter at once (R49, R65). -/
def execHoldRelease (m : MasterId) (s : State) : Result :=
  .next (s.unlessReset fun s => (s.releaseOne m).arbitrate)

/-- SYNC_COMPLETION (R92, R93). -/
def execSyncCompletion (m : MasterId) (s : State) : Result :=
  .next (s.unlessReset fun s => s.completeSync m)

/-- DETACH_COMPLETION (R17); in a shutdown each detach completion tests the end of the soft reset (R141). -/
def execDetachCompletion (a : AreaId) (s : State) : Result :=
  .next (s.unlessReset fun s => ((s.endDetach a).testSoftReset).arbitrate)

/-- PURGE_END (R114, R139): in a shutdown the area may complete its detach in the same change. -/
def execPurgeEnd (a : AreaId) (s : State) : Result :=
  .next (s.unlessReset fun s => (((s.endPurge a).endDetach a).testSoftReset).arbitrate)

/-- The end of a pending DRAIN: CUT_SHORT in a HALTED area, COMPLETE once its mark is passed (R130). -/
def State.endDrainNow (s : State) (a : AreaId) : State := if (s.area a).state = .halted then s.cutDrain a else s.endDrain a

/-- DRAIN_END (R130). -/
def execDrainEnd (a : AreaId) (s : State) : Result :=
  .next (s.unlessReset fun s => s.endDrainNow a)

/-- SOFT_RESET_END (R141): the freed tags are offered to the arbiter (R65). -/
def execSoftResetEnd (s : State) : Result :=
  .next (s.unlessReset fun s => s.testSoftReset.arbitrate)

end Sys2Proof.Machine
end

