-- ==== Sys2Proof/Machine/Operands.lean ====
section
/-! DEFINITION. The encodings of Chapter 11: codes (R156, R157), argument bytes, and the reply layouts of 11.3 to 11.6 (R158). -/

namespace Sys2Proof.Machine

/-! ## Numbers -/

/-- The low byte of a number. -/
def byteOf (n : Nat) : Byte := BitVec.ofNat 8 n

/-- Two bytes, most significant first (R157). -/
def bytes2 (n : Nat) : List Byte := [byteOf (n / 256), byteOf n]

/-- Four bytes, most significant first (R157). -/
def bytes4 (n : Nat) : List Byte := bytes2 (n / 65536) ++ bytes2 n

/-- A line address in five bytes, the top five bits 0 (R157). -/
def lineBytes (line : Line) : List Byte := byteOf (line.toNat / 4294967296) :: bytes4 line.toNat

def boolByte (b : Bool) : Byte := if b then 1#8 else 0#8

/-- An area or master number, FFH when absent (R157). -/
def numberByte (n : Option Nat) : Byte :=
  match n with
  | some k => byteOf k
  | none => 0xFF#8

/-- Reply bytes of a command with a status other than DONE: 00H each (R121, R157). -/
def zeroBytes (n : Nat) : List Byte := List.replicate n 0#8

/-! ## Codes of the management port (R157) -/

def Status.code : Status → Byte
  | .done => 0x00#8
  | .accepted => 0x01#8
  | .busy => 0x02#8
  | .wrongState => 0x03#8
  | .range => 0x04#8
  | .conflict => 0x05#8
  | .unknown => 0x06#8
  | .empty => 0x07#8

def AreaState.code : AreaState → Byte
  | .free => 0x00#8
  | .joined => 0x01#8
  | .halted => 0x02#8
  | .detaching => 0x03#8

def FaultPolicy.code : FaultPolicy → Byte
  | .carryOn => 0x00#8
  | .halt => 0x01#8
  | .discard => 0x02#8

/-- The policy of an argument byte, none if it is not listed (R126, R157). -/
def policyOf (b : Byte) : Option FaultPolicy :=
  if b = 0#8 then some .carryOn else if b = 1#8 then some .halt else if b = 2#8 then some .discard else none

def Escalate.code : Escalate → Byte
  | .never => 0x00#8
  | .resetRequest => 0x01#8

/-- The escalate setting of an argument byte, none if it is not listed (R126, R157). -/
def escalateOf (b : Byte) : Option Escalate :=
  if b = 0#8 then some .never else if b = 1#8 then some .resetRequest else none

def opCode : Option LongOp → Byte
  | none => 0x00#8
  | some (.drain _) => 0x01#8
  | some (.purge _) => 0x02#8
  | some .detach => 0x03#8

def LastOutcome.code : LastOutcome → Byte
  | .nothing => 0x00#8
  | .complete => 0x01#8
  | .cutShort => 0x02#8

def FaultCause.code : FaultCause → Byte
  | .fail => 0x01#8
  | .decode => 0x02#8
  | .timeout => 0x03#8
  | .purged => 0x04#8
  | .discarded => 0x05#8

def Context.code : Context → Byte
  | .idle => 0x00#8
  | .postingWait _ => 0x01#8
  | .strictWait _ => 0x02#8
  | .throughWait _ _ => 0x03#8
  | .readWait _ _ => 0x04#8
  | .syncWait _ => 0x05#8

def Mode.code : Mode → Byte
  | .running => 0x00#8
  | .shutdown => 0x01#8

def Arbitration.code : Arbitration → Byte
  | .roundRobin => 0x00#8
  | .fixed => 0x01#8

/-- The arbitration setting of an argument byte, none if it is not listed (R127, R157). -/
def arbitrationOf (b : Byte) : Option Arbitration :=
  if b = 0#8 then some .roundRobin else if b = 1#8 then some .fixed else none

def ResetCause.code : ResetCause → Byte
  | .nothing => 0x00#8
  | .power => 0x01#8
  | .pin => 0x02#8
  | .soft => 0x03#8

/-! ## Argument bytes -/

/-- The area of an argument byte, none if it is not 0 to 11. -/
def areaOf (b : Byte) : Option AreaId := if h : b.toNat < 12 then some ⟨b.toNat, h⟩ else none

/-- The master of an argument byte, none if it is not 0 to 15. -/
def masterOf (b : Byte) : Option MasterId := if h : b.toNat < 16 then some ⟨b.toNat, h⟩ else none

/-- A byte taken as on when it is non-zero (R157). -/
def onOf (b : Byte) : Bool := b != 0#8

/-! ## Fields of a fabric answer (R150, R156) -/

/-- The fields of a fabric answer as they are sent; a field that the status does not require is zero (R156). -/
structure AnswerFields where
  status : BitVec 2
  reason : BitVec 3
  data : LineData
  deferredCount : BitVec 8
  deferredLine : Line
  deferredCause : BitVec 3
  deriving DecidableEq, Repr

def Reason.code : Reason → BitVec 3
  | .memory => 1#3
  | .decode => 2#3
  | .timeout => 3#3
  | .halted => 4#3
  | .protocol => 5#3

/-- An answer with every further field absent. -/
def AnswerFields.bare (status : BitVec 2) : AnswerFields :=
  { status := status, reason := 0, data := zeroData, deferredCount := 0, deferredLine := 0, deferredCause := 0 }

/-- The encoded fields of an answer (R150, R156). -/
def AnswerBody.fields : AnswerBody → AnswerFields
  | .okay => AnswerFields.bare 0#2
  | .okayData data => { AnswerFields.bare 0#2 with data := data }
  | .error reason => { AnswerFields.bare 1#2 with reason := reason.code }
  | .retry => AnswerFields.bare 2#2
  | .deferred count first =>
    match first with
    | some f =>
      { AnswerFields.bare 3#2 with
        deferredCount := BitVec.ofNat 8 count, deferredLine := f.line, deferredCause := f.cause.code.setWidth 3 }
    | none => { AnswerFields.bare 3#2 with deferredCount := BitVec.ofNat 8 count }

/-- The kind field of a memory-port request: 0 READ, 1 WRITE (R156). -/
def MemKind.code : MemKind → BitVec 1
  | .read => 0#1
  | .write => 1#1

/-! ## Reply layouts -/

/-- IDENTIFY (11.3). -/
def identifyReply : List Byte :=
  bytes2 Config.vendorCode ++ bytes2 Config.partCode ++ [Config.revision] ++ bytes2 Config.slots ++ [12#8, 16#8, 8#8]

/-- Two bits per tag: 00 FREE, 01 BUSY, 10 STALE (11.3). -/
def TagState.bits : TagState → Nat
  | .free => 0
  | .busy _ => 1
  | .stale _ => 2

/-- The 16-bit word of tag states, tag 0 in bits 1 and 0 (11.3). -/
def State.tagWord (s : State) : Nat := (allTags.map fun t => (s.tag t).bits * 4 ^ t.val).sum

/-- The number of areas in a state (R123). -/
def State.areasIn (s : State) (v : AreaState) : Nat := allAreas.countP fun a => (s.area a).state == v

/-- Byte 5 of GET STATUS (11.3). -/
def State.statusBits (s : State) : Byte :=
  byteOf ((if s.alert then 1 else 0) + (if s.rstreq then 2 else 0) + (if s.overflowEscalates then 4 else 0) +
    (if s.arbitration = .fixed then 8 else 0))

/-- GET STATUS (R123, 11.3). -/
def State.statusReply (s : State) : List Byte :=
  [s.mode.code] ++ bytes2 s.events.toNat ++ bytes2 s.alertMask.toNat ++ [s.statusBits] ++ bytes2 s.poolOccupancy ++
    [byteOf (s.areasIn .free), byteOf (s.areasIn .joined), byteOf (s.areasIn .halted), byteOf (s.areasIn .detaching),
      byteOf s.holdList.length] ++
    bytes2 s.tagWord ++
    [byteOf (allTags.countP fun t => (s.tag t).isFree), byteOf (allTags.countP fun t => (s.tag t).isBusy),
      byteOf (allTags.countP fun t => (s.tag t).isStale), byteOf s.drainTagCount, byteOf s.faultLog.length] ++
    bytes2 s.overflowCount ++ bytes2 s.timeout

/-- GET AREA (R124, 11.4). -/
def State.areaReply (s : State) (a : AreaId) : List Byte :=
  let r := s.area a
  [r.state.code, numberByte (r.master.map Fin.val), byteOf r.size, byteOf r.occupancy, r.policy.code, r.escalate.code,
    byteOf r.retry, byteOf r.linger, byteOf r.highWater, boolByte r.merge, opCode r.pendingOp, r.lastOutcome.code,
    numberByte ((s.blockedBy a).map Fin.val), boolByte (s.urgent a), byteOf r.issuedCount]

/-- GET MASTER (R125, 11.4). -/
def MasterRec.reply (r : MasterRec) : List Byte :=
  [numberByte (r.joinedArea.map Fin.val), numberByte (r.detachingArea.map Fin.val), byteOf r.pendingCount] ++
    (match r.firstFault with
    | some f => f.cause.code :: lineBytes f.line
    | none => zeroBytes 6) ++
    [boolByte r.throughSeen, r.context.code]

/-- A fault record (11.5). -/
def FaultRecord.reply (r : FaultRecord) : List Byte :=
  bytes2 r.number.toNat ++ [byteOf r.master.val, numberByte (r.area.map Fin.val)] ++ lineBytes r.line ++
    bytes4 (match r.mask with
      | some m => m.toNat
      | none => 0) ++
    [r.cause.code, byteOf r.attempts] ++ bytes2 r.entries ++
    [byteOf ((if r.disposition = .direct then 1 else 0) + (if r.escalated then 2 else 0))]

/-- The Reset Record (11.6). -/
def ResetRecord.reply (r : ResetRecord) : List Byte :=
  [r.cause.code] ++ bytes2 r.heldLost ++ [byteOf r.issuedUncertain, byteOf r.unreadFaults] ++ bytes2 r.overflow ++
    [boolByte r.requested]

/-! ## What the bridge drives in a frame -/

/-- Byte n of the frame, counted from the assertion of select, as the bridge drives it (R117): FFH up to and with the turnaround,
then the status, the reply, and 00H. With select released the board's pull-up reads FFH (11.7). In a frame that a pin reset abandoned
the manual says only that the port takes nothing; that it drives FFH there is the model's choice (log 33). -/
def Frame.drives (f : Frame) (n : Nat) : Byte :=
  match f with
  | .waiting | .abandoned | .command => 0xFF#8
  | .taken bytes status reply _ =>
    if n ≤ bytes then 0xFF#8 else if n = bytes + 1 then status.code else (reply[n - (bytes + 2)]?).getD 0#8

end Sys2Proof.Machine
end

