-- ==== Sys2Proof/Machine/Management.lean ====
section
/-! DEFINITION. The management commands (Chapter 8, with Chapters 1, 5, 6, 7 and 9). -/

namespace Sys2Proof.Machine

/-! ## The frame of a command -/

/-- A command's outcome: its status, its reply, whether a fault record is removed once that reply is clocked out (R106), and the
state it leaves. -/
structure Taken where
  status : Status
  reply : List Byte
  removal : Bool
  state : State

/-- A refusal: nothing changes and the reply is 00H in every byte (R120, R121). -/
def State.refuse (s : State) (status : Status) (replyBytes : Nat) : Taken :=
  { status := status, reply := zeroBytes replyBytes, removal := false, state := s }

/-- DONE without a reply. -/
def State.done (s : State) : Taken := { status := .done, reply := [], removal := false, state := s }

/-- DONE with a reply. -/
def State.reply (s : State) (bytes : List Byte) : Taken := { status := .done, reply := bytes, removal := false, state := s }

/-- ACCEPTED, for a long operation (R128). -/
def State.accepted (s : State) : Taken := { status := .accepted, reply := [], removal := false, state := s }

/-- The frame of a taken command: its bytes, status and reply (R117, R118, R121). -/
def Taken.close (r : Taken) (args : Nat) : State := { r.state with frame := .taken (args + 1) r.status r.reply r.removal }

/-- A command with this many argument bytes takes effect at the moment its last byte is taken, in an open frame that has taken no
command yet (R117, R118, log 8). In any other phase nothing is taken. -/
def State.command (s : State) (args : Nat) (k : State → Taken) : State :=
  s.unlessReset fun s => if s.frame = .command then (k s).close args else s

/-- A command that is answered BUSY in SHUTDOWN mode, before its own checks (R120, R134). None of these has a reply. -/
def State.runningCommand (s : State) (args : Nat) (k : State → Taken) : State :=
  s.command args fun s => if s.mode = .shutdown then s.refuse .busy 0 else k s

/-! ## Reports -/

/-- IDENTIFY (R122). -/
def execIdentify (s : State) : Result := .next (s.command 0 fun s => s.reply identifyReply)

/-- GET STATUS (R123). -/
def execGetStatus (s : State) : Result := .next (s.command 0 fun s => s.reply s.statusReply)

/-- GET AREA (R124). -/
def execGetArea (area : Byte) (s : State) : Result :=
  .next (s.command 1 fun s =>
    match areaOf area with
    | some a => s.reply (s.areaReply a)
    | none => s.refuse .range 15)

/-- GET MASTER (R125). -/
def execGetMaster (master : Byte) (s : State) : Result :=
  .next (s.command 1 fun s =>
    match masterOf master with
    | some m => s.reply (s.master m).reply
    | none => s.refuse .range 11)

/-- READ RESET RECORD (R135). -/
def execReadResetRecord (s : State) : Result := .next (s.command 0 fun s => s.reply s.resetRecord.reply)

/-- CLEAR RESET RECORD (R135): cause NONE and the other fields 0 or no. -/
def execClearResetRecord (s : State) : Result :=
  .next (s.runningCommand 0 fun s =>
    { s with resetRecord :=
        { cause := .nothing, heldLost := 0, issuedUncertain := 0, unreadFaults := 0, overflow := 0, requested := false } }.done)

/-- PEEK FAULT (R106). -/
def execPeekFault (s : State) : Result :=
  .next (s.command 0 fun s =>
    match s.faultLog with
    | r :: _ => s.reply r.reply
    | [] => s.refuse .empty 18)

/-- READ FAULT (R106): the record stays in the log until its reply is clocked out. -/
def execReadFault (s : State) : Result :=
  .next (s.command 0 fun s =>
    match s.faultLog with
    | r :: _ => { s.reply r.reply with removal := true }
    | [] => s.refuse .empty 18)

/-- FAULT_RECORD_REMOVAL (R106): the record that READ FAULT returned leaves the log, once. -/
def execFaultRecordRemoval (s : State) : Result :=
  .next (s.unlessReset fun s =>
    match s.frame with
    | .taken bytes status reply true => { s with faultLog := s.faultLog.tail, frame := .taken bytes status reply false }
    | .taken _ _ _ false | .waiting | .abandoned | .command => s)

/-! ## Settings -/

/-- The sizes of SET POOL pass its second and third check (R2). -/
def poolFits (sizes : Vector Byte 12) : Bool :=
  (sizes.toList.all fun b => b.toNat % 4 == 0 && decide (b.toNat ≤ Config.maxAreaSize)) &&
    decide ((sizes.toList.map BitVec.toNat).sum ≤ Config.slots)

/-- All twelve sizes are replaced together (R2). -/
def State.setSizes (s : State) (sizes : Vector Byte 12) : State :=
  { s with areas := Vector.ofFn fun i => { s.areas[i] with size := (sizes[i]).toNat } }

/-- SET POOL (R2). -/
def execSetPool (sizes : Vector Byte 12) (s : State) : Result :=
  .next (s.runningCommand 12 fun s =>
    if (allAreas.all fun a => (s.area a).state == .free) && s.poolOccupancy == 0 then
      if poolFits sizes then (s.setSizes sizes).done else s.refuse .range 0
    else s.refuse .wrongState 0)

/-- SET AREA (R126): all six settings at once; linger and high-water mark are an eligibility decision (R71). -/
def execSetArea (area policy escalate retry linger highWater merge : Byte) (s : State) : Result :=
  .next (s.runningCommand 7 fun s =>
    match areaOf area, policyOf policy, escalateOf escalate with
    | some a, some p, some e =>
      if retry.toNat ≤ 3 ∧ highWater.toNat ≤ Config.maxAreaSize then
        (s.setArea a
          { s.area a with
            policy := p, escalate := e, retry := retry.toNat, linger := linger.toNat, highWater := highWater.toNat,
            merge := onOf merge }).arbitrate.done
      else s.refuse .range 0
    | _, _, _ => s.refuse .range 0)

/-- SET GLOBAL (R127): the eleven event positions of the mask are kept. -/
def execSetGlobal (timeout : BitVec 16) (arbitration overflowEscalates : Byte) (alertMask : BitVec 16) (s : State) : Result :=
  .next (s.runningCommand 6 fun s =>
    match arbitrationOf arbitration with
    | some arb =>
      if 1 ≤ timeout.toNat ∧ timeout.toNat ≤ 4095 then
        { s with
          timeout := timeout.toNat
          arbitration := arb
          overflowEscalates := onOf overflowEscalates
          alertMask := alertMask.setWidth 11 }.done
      else s.refuse .range 0
    | none => s.refuse .range 0)

/-- ACK EVENTS (R133): the reply is the Event Set before the clearing. -/
def execAckEvents (events : BitVec 16) (s : State) : Result :=
  .next (s.command 2 fun s => (s.acknowledge events).reply (bytes2 s.events.toNat))

/-- CLEAR MASTER (R100). -/
def execClearMaster (master : Byte) (s : State) : Result :=
  .next (s.runningCommand 1 fun s =>
    match masterOf master with
    | some m => (s.setMaster m { s.master m with pendingCount := 0, firstFault := none, throughSeen := false }).done
    | none => s.refuse .range 0)

/-- RECOVER TAGS (R88): every STALE tag becomes FREE, and the freed tags are offered at once. -/
def execRecoverTags (s : State) : Result := .next (s.runningCommand 0 fun s => s.freeStale.arbitrate.done)

/-! ## Joining and unjoining -/

/-- The records that a JOIN writes (R14). -/
def State.joinMaster (s : State) (a : AreaId) (m : MasterId) : State :=
  (s.setArea a { s.area a with state := .joined, master := some m }).setMaster m { s.master m with joinedArea := some a }

/-- JOIN (R14). -/
def execJoin (area master : Byte) (s : State) : Result :=
  .next (s.runningCommand 2 fun s =>
    match areaOf area, masterOf master with
    | some a, some m =>
      if (s.area a).state ≠ .free then s.refuse .wrongState 0
      else if (s.area a).size = 0 then s.refuse .range 0
      else if (s.master m).joinedArea ≠ none ∨ (s.master m).detachingArea ≠ none then s.refuse .conflict 0
      else (s.joinMaster a m).done
    | _, _ => s.refuse .range 0)

/-- A write in POSTING_WAIT whose master has lost its join becomes a through-write (R29). -/
def State.convertWaiting (s : State) (m : MasterId) : State :=
  match s.context m with
  | .postingWait w => s.takeThrough m w.line w.mask w.data
  | .idle | .strictWait _ | .throughWait _ _ | .readWait _ _ | .syncWait _ => s

/-- A JOINED area becomes DETACHING and its master is unjoined, with the posting wait's conversion (R15, R29, R137). A DRAIN or
PURGE pending on it, which only a soft reset meets, stays pending (R138). -/
def State.detachArea (s : State) (a : AreaId) : State :=
  let s' := s.beginDetach a ((s.area a).pendingOp.getD .detach)
  match (s.area a).master with
  | none => s'
  | some m => s'.convertWaiting m

/-- UNJOIN (R15, R16): an empty area completes its detach at once. -/
def execUnjoin (area : Byte) (s : State) : Result :=
  .next (s.runningCommand 1 fun s =>
    match areaOf area with
    | some a =>
      if (s.area a).state ≠ .joined then s.refuse .wrongState 0
      else if (s.area a).pendingOp ≠ none then s.refuse .busy 0
      else (((s.detachArea a).endDetach a).conclude s.responses.length).accepted
    | none => s.refuse .range 0)

/-! ## Halted areas and long operations -/

/-- RESUME (R111): the area's head is offered again. -/
def execResume (area : Byte) (s : State) : Result :=
  .next (s.runningCommand 1 fun s =>
    match areaOf area with
    | some a =>
      if (s.area a).state ≠ .halted then s.refuse .wrongState 0
      else if (s.area a).purgePending then s.refuse .busy 0
      else (s.setArea a { s.area a with state := .joined }).arbitrate.done
    | none => s.refuse .range 0)

/-- A PURGE begins (R112): it takes its mark, and drops the non-strict entries in HELD and REISSUE posted before it. -/
def State.beginPurge (s : State) (a : AreaId) : State :=
  (s.setArea a { s.area a with pendingOp := some (.purge s.nextPlace) }).dropEntries a .purged
    fun e => e.droppable && decide (e.place < s.nextPlace)

/-- PURGE (R112): the drops are retirements, and a purge with nothing left to wait for ends at once (R114). -/
def execPurge (area : Byte) (s : State) : Result :=
  .next (s.runningCommand 1 fun s =>
    match areaOf area with
    | some a =>
      if (s.area a).state = .free ∨ (s.area a).state = .detaching then s.refuse .wrongState 0
      else if (s.area a).pendingOp ≠ none then s.refuse .busy 0
      else (((s.beginPurge a).settleArea a).conclude s.responses.length).accepted
    | none => s.refuse .range 0)

/-- DRAIN (R129): it takes its mark, and with nothing to wait for it ends at once (R130). -/
def execDrain (area : Byte) (s : State) : Result :=
  .next (s.runningCommand 1 fun s =>
    match areaOf area with
    | some a =>
      if (s.area a).state = .free ∨ (s.area a).state = .halted then s.refuse .wrongState 0
      else if (s.area a).pendingOp ≠ none then s.refuse .busy 0
      else (((s.setArea a { s.area a with pendingOp := some (.drain s.nextPlace) }).endDrain a).arbitrate).accepted
    | none => s.refuse .range 0)

/-! ## Soft reset -/

/-- The area takes part in the soft reset (R141, log 16). -/
def State.enlist (s : State) (a : AreaId) : State := s.setArea a { s.area a with inShutdown := true }

/-- What the soft reset does to one area (R137 to R139). -/
def State.shutArea (s : State) (a : AreaId) : State :=
  match (s.area a).state with
  | .free => s
  | .detaching => s.enlist a
  | .joined => ((s.enlist a).detachArea a).endDetach a
  | .halted =>
    if (s.area a).purgePending then s.enlist a
    else ((s.enlist a).beginPurge a).settleArea a

/-- SOFT RESET taken: the mode becomes SHUTDOWN and the areas are taken in ascending number, as one change (R137). -/
def State.beginShutdown (s : State) : State := allAreas.foldl State.shutArea { s with mode := .shutdown }

/-- SOFT RESET (R137, R141). -/
def execSoftReset (s : State) : Result :=
  .next (s.runningCommand 0 fun s => (s.beginShutdown.conclude s.responses.length).accepted)

/-! ## Unlisted codes and select -/

/-- UNKNOWN_COMMAND (R119): answered UNKNOWN, without arguments and without a reply. -/
def execUnknownCommand (_code : Byte) (s : State) : Result := .next (s.command 0 fun s => s.refuse .unknown 0)

/-- SELECT_ASSERTION (R117): a new frame opens at the command phase. While RESET# is asserted no frame is taken, and after a pin
reset with select asserted the port waits for its release first (log 9). -/
def execSelectAssertion (s : State) : Result :=
  .next (if s.resetHeld ∨ s.frame = .abandoned then { s with frame := .abandoned } else { s with frame := .command })

/-- SELECT_RELEASE (R117, R118): the frame ends, whatever its phase. -/
def execSelectRelease (s : State) : Result := .next { s with frame := .waiting }

end Sys2Proof.Machine
end

