-- ==== Sys2Proof/Machine/Reset.lean ====
section
/-! DEFINITION. Pin reset, release of RESET#, power-on (Chapter 9, R159). -/

namespace Sys2Proof.Machine

/-- Live entries in HELD or REISSUE (R143). -/
def State.heldLost (s : State) : Nat := (allAreas.map fun a => (s.area a).queue.countP fun e => !e.isIssued).sum

/-- Live entries in ISSUED (R143). -/
def State.issuedUncertain (s : State) : Nat := (allAreas.map fun a => (s.area a).issuedCount).sum

/-- The Reset Record that a pin reset writes (R143, R145). -/
def State.pinRecord (s : State) : ResetRecord :=
  { cause := .pin, heldLost := s.heldLost, issuedUncertain := s.issuedUncertain, unreadFaults := s.faultLog.length,
    overflow := s.overflowCount, requested := s.rstreq }

/-- The frame after a pin reset: one in progress is abandoned, and select must be released and asserted again (R117, R136). -/
def Frame.afterPin : Frame → Frame
  | .waiting => .waiting
  | .abandoned | .command | .taken _ _ _ _ => .abandoned

/-- Every block takes its pin-reset values (R18, R54, R73, R90, R101, R116, R136, R143). The record counter is kept (R102); the
input pins, the model's clock and the queue are not the reset's to change. -/
def State.pinReset (s : State) : State :=
  { State.reset with
    recordCounter := s.recordCounter
    nextPlace := s.nextPlace
    resetRecord := s.pinRecord
    frame := s.frame.afterPin
    resetHeld := true
    straps := s.straps
    memoryReady := s.memoryReady
    now := s.now
    pending := s.pending }

/-- PIN_RESET (R143, R159). An assertion is recognised once: while RESET# stays asserted there is no second one, and one held since
power-on is part of the power-on reset (R144, log 20). -/
def execPinReset (s : State) : Result := .next (s.unlessReset State.pinReset)

/-- RESET_RELEASE (R143, R159): the straps are sampled and the bridge begins to take requests. -/
def execResetRelease (straps : BitVec 2) (s : State) : Result := .next { s with straps := straps, resetHeld := false }

/-- POWER_ON (R144): every piece of state takes its power-on value; the straps are sampled (R159). The line of the memory controller
is an input, and the queue is the world's (log 10, log 1). -/
def execPowerOn (straps : BitVec 2) (resetLow : Bool) (s : State) : Result :=
  .next { State.reset with straps := straps, resetHeld := resetLow, memoryReady := s.memoryReady, pending := s.pending }

/-- The REFCLK frequency in MHz that the sampled straps select (11.7, R159). -/
def State.refclk (s : State) : Nat :=
  if s.straps = 0#2 then 25 else if s.straps = 1#2 then 50 else if s.straps = 2#2 then 100 else 125

end Sys2Proof.Machine
end

