-- ==== Sys2Proof/Machine/Dispatch.lean ====
section
/-! DEFINITION. One arm per command. -/

namespace Sys2Proof.Machine

def exec (i : Instr) (s : State) : Host.Outcome State Fault Refusal :=
  match i with
  | .write m line mask strict data => Sys2Proof.Machine.execWrite m line mask strict data s
  | .read m line mask => Sys2Proof.Machine.execRead m line mask s
  | .sync m => Sys2Proof.Machine.execSync m s
  | .unknownKindRequest m kind => Sys2Proof.Machine.execUnknownKindRequest m kind s
  | .answerDelivery => Sys2Proof.Machine.execAnswerDelivery s
  | .arbiterGrant => Sys2Proof.Machine.execArbiterGrant s
  | .memoryReady level => Sys2Proof.Machine.execMemoryReady level s
  | .completion t result data => Sys2Proof.Machine.execCompletion t result data s
  | .expiry t => Sys2Proof.Machine.execExpiry t s
  | .lingerExpiry a => Sys2Proof.Machine.execLingerExpiry a s
  | .postingWaitRetry a => Sys2Proof.Machine.execPostingWaitRetry a s
  | .holdRelease m => Sys2Proof.Machine.execHoldRelease m s
  | .syncCompletion m => Sys2Proof.Machine.execSyncCompletion m s
  | .detachCompletion a => Sys2Proof.Machine.execDetachCompletion a s
  | .purgeEnd a => Sys2Proof.Machine.execPurgeEnd a s
  | .drainEnd a => Sys2Proof.Machine.execDrainEnd a s
  | .softResetEnd => Sys2Proof.Machine.execSoftResetEnd s
  | .identify => Sys2Proof.Machine.execIdentify s
  | .getStatus => Sys2Proof.Machine.execGetStatus s
  | .getArea area => Sys2Proof.Machine.execGetArea area s
  | .getMaster master => Sys2Proof.Machine.execGetMaster master s
  | .setPool sizes => Sys2Proof.Machine.execSetPool sizes s
  | .setArea area policy escalate retry linger highWater merge => Sys2Proof.Machine.execSetArea area policy escalate retry linger highWater merge s
  | .setGlobal timeout arbitration overflowEscalates alertMask => Sys2Proof.Machine.execSetGlobal timeout arbitration overflowEscalates alertMask s
  | .join area master => Sys2Proof.Machine.execJoin area master s
  | .unjoin area => Sys2Proof.Machine.execUnjoin area s
  | .resume area => Sys2Proof.Machine.execResume area s
  | .purge area => Sys2Proof.Machine.execPurge area s
  | .drain area => Sys2Proof.Machine.execDrain area s
  | .peekFault => Sys2Proof.Machine.execPeekFault s
  | .readFault => Sys2Proof.Machine.execReadFault s
  | .clearMaster master => Sys2Proof.Machine.execClearMaster master s
  | .ackEvents events => Sys2Proof.Machine.execAckEvents events s
  | .recoverTags => Sys2Proof.Machine.execRecoverTags s
  | .softReset => Sys2Proof.Machine.execSoftReset s
  | .readResetRecord => Sys2Proof.Machine.execReadResetRecord s
  | .clearResetRecord => Sys2Proof.Machine.execClearResetRecord s
  | .unknownCommand code => Sys2Proof.Machine.execUnknownCommand code s
  | .selectRelease => Sys2Proof.Machine.execSelectRelease s
  | .pinReset => Sys2Proof.Machine.execPinReset s
  | .resetRelease straps => Sys2Proof.Machine.execResetRelease straps s
  | .powerOn straps resetLow => Sys2Proof.Machine.execPowerOn straps resetLow s
  | .selectAssertion => Sys2Proof.Machine.execSelectAssertion s
  | .faultRecordRemoval => Sys2Proof.Machine.execFaultRecordRemoval s

end Sys2Proof.Machine
end

