-- ==== Sys2Proof/Machine/Step.lean ====
section
/-! DEFINITION. One step: the command at the front of the queue, or one microsecond on an empty queue (log 1, log 4). -/

namespace Sys2Proof.Machine

/-- A step takes the command at the front of the queue, first in first out; on an empty queue one microsecond passes. -/
def step (s : State) : Host.Outcome State Fault Refusal :=
  match s.pending with
  | i :: rest => exec i { s with pending := rest }
  | [] => .next s.tick

/-- The state with the command that a table word spells in front of its queue; no row has bits, so none is spelt. -/
def State.withFetchWord (s : State) (nbits w : Nat) : State :=
  match decodeTableWord nbits w with
  | some i => { s with pending := i :: s.pending }
  | none => s

end Sys2Proof.Machine
end

