-- ==== Sys2Proof/Safety.lean ====
section
/-! DEFINITION. What counts as a safe state of the bridge, in the terms the statements use: the bounds and agreements that the manual
states of every moment. -/

namespace Sys2Proof.Machine

/-- The line pool (R1, R2): sizes are multiples of 4 up to 128, they sum to at most 384, and no area holds more live entries than
its size. -/
abbrev State.PoolWithin (s : State) : Prop :=
  (∀ a, (s.area a).size % 4 = 0 ∧ (s.area a).size ≤ Config.maxAreaSize ∧ (s.area a).occupancy ≤ (s.area a).size) ∧
    (allAreas.map fun a => (s.area a).size).sum ≤ Config.slots

/-- The settings are in their ranges (R3, R77). -/
abbrev State.SettingsLegal (s : State) : Prop :=
  (∀ a, (s.area a).retry ≤ 3 ∧ (s.area a).linger ≤ 255 ∧ (s.area a).highWater ≤ Config.maxAreaSize) ∧
    1 ≤ s.timeout ∧ s.timeout ≤ 4095

/-- Each master's count is 0 to 255, and its first unreported fault is present exactly when the count is above 0 (R5, R98). -/
abbrev State.AccountsExact (s : State) : Prop :=
  ∀ m, (s.master m).pendingCount ≤ Config.pendingMax ∧ ((s.master m).firstFault.isSome ↔ 0 < (s.master m).pendingCount)

/-- The Fault Log holds at most 16 records and the overflow count stays within 65535 (R104, R105). -/
abbrev State.LogBounded (s : State) : Prop :=
  s.faultLog.length ≤ Config.logRecords ∧ s.overflowCount ≤ Config.overflowMax

/-- The Hold List holds at most 8 contexts (R47). -/
abbrev State.HoldBounded (s : State) : Prop := s.holdList.length ≤ Config.holdPlaces

/-- The drain-tag count is at most 6 (R56, R74). -/
abbrev State.DrainTagsBounded (s : State) : Prop := s.drainTagCount ≤ Config.drainTagLimit

/-- No area has more than four entries in ISSUED (R56, R124). -/
abbrev State.IssuedBounded (s : State) : Prop := ∀ a, ((s.area a).queue.filter Entry.isIssued).length ≤ Config.issuedLimit

/-- At most one BUSY tag exists per line (R75). -/
abbrev State.OneTagPerLine (s : State) : Prop :=
  ∀ t u : TagId, t ≠ u → ∀ x ∈ (s.tag t).transaction, ∀ y ∈ (s.tag u).transaction, x.request.line ≠ y.request.line

/-- Each queue stands in rising posting order, and every place given lies before the next one (R9, R11). -/
abbrev State.QueuesOrdered (s : State) : Prop :=
  ∀ a, (s.area a).queue.Pairwise (fun x y => x.place < y.place) ∧ ∀ e ∈ (s.area a).queue, e.place < s.nextPlace

/-- The Hold List names each master at most once, and only masters whose context waits there (R47). -/
abbrev State.HoldAgrees (s : State) : Prop :=
  (s.holdList.map HoldPlace.master).Nodup ∧ ∀ p ∈ s.holdList, (s.context p.master).heldLine.isSome

/-- The number of masters with a request in progress (R6). -/
def State.inProgress (s : State) : Nat := allMasters.countP fun m => s.context m ≠ .idle

/-- The bound of the response queue (R148): answers waiting and requests in progress are at most 17 together. -/
abbrev State.AnswersBounded (s : State) : Prop := s.HoldAgrees ∧ s.responses.length + s.inProgress ≤ 17

/-- Joins agree on both sides (R3 to R5, R14, R15, R17): a master's joined area is JOINED or HALTED and names it, its detaching area is
DETACHING and names it, and it never has both; an area that is not FREE has a master that names it back; a FREE area has no
master and no entry. -/
abbrev State.JoinsAgree (s : State) : Prop :=
  (∀ m a, (s.master m).joinedArea = some a → (s.master m).detachingArea = none ∧ (s.area a).master = some m ∧
    ((s.area a).state = .joined ∨ (s.area a).state = .halted)) ∧
  (∀ m a, (s.master m).detachingArea = some a → (s.area a).master = some m ∧ (s.area a).state = .detaching) ∧
  (∀ a, (s.area a).state = .joined ∨ (s.area a).state = .halted →
    ∃ m, (s.area a).master = some m ∧ (s.master m).joinedArea = some a) ∧
  (∀ a, (s.area a).state = .detaching → ∃ m, (s.area a).master = some m ∧ (s.master m).detachingArea = some a) ∧
  (∀ a, (s.area a).state = .free → (s.area a).master = none ∧ (s.area a).queue = [])

/-- The tag on which a context's request is issued, if it is (R7, R76). -/
def Context.tag : Context → Option TagId
  | .throughWait _ (.issued t) | .readWait _ (.issued t) => some t
  | .throughWait _ .inHold | .readWait _ .inHold | .idle | .postingWait _ | .strictWait _ | .syncWait _ => none

/-- The user of a BUSY tag waits on that tag: an entry in ISSUED on it, or a master's context issued on it (R76). -/
def State.userWaits (s : State) (t : TagId) : TagUser → Bool
  | .entry a place => (s.area a).queue.any fun e => e.place == place && e.state == .issued t
  | .master m => (s.context m).tag == some t

/-- Tags and their users agree (R8, R10, R74 to R76): an entry is ISSUED on a tag that is BUSY with it, on its line; a context is
issued on a tag that is BUSY with its master; and the user of every BUSY tag waits on that tag. -/
abbrev State.UsersAgree (s : State) : Prop :=
  (∀ a, ∀ e ∈ (s.area a).queue, ∀ t, e.state = .issued t →
    ∃ tr ∈ (s.tag t).transaction, tr.user = .entry a e.place ∧ tr.request.line = e.line) ∧
  (∀ m t, (s.context m).tag = some t → ∃ tr ∈ (s.tag t).transaction, tr.user = .master m) ∧
  (∀ t, ∀ tr ∈ (s.tag t).transaction, s.userWaits t tr.user = true)

/-- Tags and users agree, in a state whose queues stand in order and whose Hold List is within its places. -/
abbrev State.TagsAgree (s : State) : Prop := s.HoldBounded ∧ s.QueuesOrdered ∧ s.UsersAgree

/-- The arbiter has nothing left to do: if the memory port can accept and a tag is FREE, no claimant is offered (R65). -/
abbrev State.ArbiterDone (s : State) : Prop := s.canAccept = true → s.lowestFree = none ∨ s.chosen = none

/-- While RESET# stays asserted no entry is live and no request waits (R143). -/
abbrev State.HeldEmpty (s : State) : Prop := s.resetHeld = true → s.holdList = [] ∧ ∀ a, (s.area a).queue = []

/-- The arbiter has nothing left to do, in a state whose joins agree and which is empty while it is held in reset. -/
abbrev State.Settled (s : State) : Prop := s.ArbiterDone ∧ s.JoinsAgree ∧ s.HeldEmpty

/-! ## Nothing is left to test -/

/-- No waiter of the area has what it waits for (R12): the write in POSTING_WAIT no free slot (R27), the SYNC no mark that is passed
(R92), a DRAIN neither a halt nor a mark that is passed (R130), a PURGE no mark that is passed (R114), a DETACH no empty queue (R17). -/
abbrev State.AreaWaits (s : State) (a : AreaId) : Prop :=
  (∀ m w, (s.area a).state = .joined → (s.area a).master = some m → s.context m = .postingWait w →
    (s.area a).size ≤ (s.area a).queue.length) ∧
  (∀ m mark, (s.area a).master = some m → s.context m = .syncWait mark → ∃ e ∈ (s.area a).queue, e.place < mark) ∧
  (∀ mark, (s.area a).pendingOp = some (.drain mark) → (s.area a).state ≠ .halted ∧ ∃ e ∈ (s.area a).queue, e.place < mark) ∧
  (∀ mark, (s.area a).pendingOp = some (.purge mark) → ∃ e ∈ (s.area a).queue, e.place < mark) ∧
  ((s.area a).state = .detaching → (s.area a).queue ≠ [])

/-- A write waits for a slot of its master's JOINED area alone (R26, R28, R29), and a SYNC for the entries of its master's joined or
detaching area (R91). -/
abbrev State.WaitersJoined (s : State) : Prop :=
  (∀ m w, s.context m = .postingWait w → ∃ a, (s.master m).joinedArea = some a ∧ (s.area a).state = .joined) ∧
  (∀ m mark, s.context m = .syncWait mark → ∃ a, (s.master m).joinedArea = some a ∨ (s.master m).detachingArea = some a)

/-- Every unreleased request of the Hold List still waits (R48): for a live entry on its line, posted before its mark if it is a
through-write, or for a BUSY tag on its line. -/
abbrev State.HoldsWait (s : State) : Prop :=
  ∀ p ∈ s.holdList, p.released = false →
    (∀ r, s.context p.master = .readWait r .inHold →
      (∃ a, ∃ e ∈ (s.area a).queue, e.line = r.line) ∨ ∃ t, ∃ tr ∈ (s.tag t).transaction, tr.request.line = r.line) ∧
    (∀ w, s.context p.master = .throughWait w .inHold →
      (∃ a, ∃ e ∈ (s.area a).queue, e.line = w.line ∧ e.place < w.mark) ∨ ∃ t, ∃ tr ∈ (s.tag t).transaction, tr.request.line = w.line)

/-- A soft reset that has not ended still waits for an area or a tag (R141). -/
abbrev State.ShutdownWaits (s : State) : Prop :=
  s.mode = .shutdown → (∃ a, (s.area a).state ≠ .free) ∨ ∃ t, (s.tag t).isBusy = true

/-- None of the bridge's own seven tests would do anything: those of R17, R27, R48, R92, R114, R130 and R141. -/
abbrev State.TestsMade (s : State) : Prop := (∀ a, s.AreaWaits a) ∧ s.WaitersJoined ∧ s.HoldsWait ∧ s.ShutdownWaits

/-! ## When commands are taken -/

/-- The Fabric Port takes a request of this master, which has none in progress (R6, R148). -/
abbrev State.takesRequest (s : State) (m : MasterId) : Prop := s.fabricReady = true ∧ s.context m = .idle

/-- The management port takes a command: select is asserted, the frame has taken none, and RESET# is not asserted (R117, R143). -/
abbrev State.takesCommand (s : State) : Prop := s.resetHeld = false ∧ s.frame = .command

/-- It takes one with its ordinary effect: the bridge is in RUNNING mode (R134). -/
abbrev State.takesInRunning (s : State) : Prop := s.takesCommand ∧ s.mode = .running

/-! ## Parts of what the statements say -/

/-- The commands that act on the pins alone, or that end the reset. -/
abbrev outlivesReset (c : Instr) : Prop :=
  (∃ b, c = .memoryReady b) ∨ c = .selectAssertion ∨ c = .selectRelease ∨ (∃ p, c = .resetRelease p) ∨ ∃ p l, c = .powerOn p l

/-- The entry that a write of these fields posts now (R8, R19, R25, R30). -/
abbrev State.newEntry (s : State) (line : Line) (mask : Mask) (strict : Bool) (data : LineData) : Entry :=
  { line := line, mask := mask, data := Vector.ofFn fun i => if mask.getLsbD i then data[i] else 0#8, place := s.nextPlace
    strict := strict, state := .held, attempts := 0, lingerStart := s.now }

/-- The state after a master's first through-write has set its through-seen flag and the THROUGH event, or s if the flag is set (R34). -/
abbrev State.seenThrough (s : State) (m : MasterId) : State :=
  if (s.master m).throughSeen then s
  else { s.setMaster m { s.master m with throughSeen := true } with events := s.events ||| 0x100#11 }

/-- The state with a request of m that waits only for a tag offered to the arbiter behind every context of the Hold List; if it is not
issued it keeps a place, released, or is answered RETRY when all eight are taken (R36, R46, R48, R68; log 21). -/
abbrev State.offeredBehind (s : State) (m : MasterId) : State :=
  let v := ({ s with holdList := s.holdList ++ [{ master := m, released := true }] } : State).arbitrate
  if v.holdList.length ≤ 8 then v else ({ v with holdList := v.holdList.filter fun p => p.master != m }).answer m .retry

/-- The state with a request of m waiting for its line: it takes a Hold List place, or is answered RETRY when all eight are taken
(R36, R46). -/
abbrev State.heldBehind (s : State) (m : MasterId) : State :=
  if s.holdList.length < 8 then ({ s with holdList := s.holdList ++ [{ master := m, released := false }] } : State).arbitrate
  else s.answer m .retry

/-- The read of these bytes is fully covered (R42): live entries for the line mark each of them, and no through-write for the line is
unfinished. -/
abbrev State.fullyCovered (s : State) (line : Line) (mask : Mask) : Prop :=
  (∀ i : Fin 32, mask.getLsbD i = true → ∃ a, ∃ e ∈ (s.area a).queue, e.line = line ∧ e.mask.getLsbD i = true) ∧
    ∀ m, ∀ r ∈ (s.context m).through, r.line ≠ line

/-- The state with a SYNC answered from the master record, and the answer when the count is 0 (R93, R95): a count above 0 is answered
DEFERRED with the first fault, and cleared. -/
abbrev State.syncAnswered (s : State) (m : MasterId) (clean : AnswerBody) : State :=
  let r := s.master m
  if r.pendingCount = 0 then s.answer m clean
  else
    (s.answer m (.deferred r.pendingCount r.firstFault)).setMaster m { r with pendingCount := 0, firstFault := none, context := .idle }

/-- What an entry keeps for its whole life, whatever becomes of its state and attempts (R8). -/
abbrev Entry.lasting (e : Entry) : Line × Mask × LineData × Nat × Bool × Nat :=
  (e.line, e.mask, e.data, e.place, e.strict, e.lingerStart)

/-- The state with the frame of a taken command: the bytes taken, the status and the reply (R117, R118, R121). -/
abbrev State.taken (s : State) (bytes : Nat) (status : Status) (reply : List Byte) : State :=
  { s with frame := .taken bytes status reply false }

/-- The management commands of the table of R158, and a byte that names none. -/
abbrev isManagement (c : Instr) : Prop := (encodeFrame c).isSome = true

end Sys2Proof.Machine
end

