-- ==== Sys2Proof/Certificates/Slice0/Obligations.lean ====
section
/-! DEFINITION. The statements for the provers. Where a statement says "the model's choice", the named log entry says what the manual
leaves open. -/

section Slice0
open Sys2Proof Sys2Proof.Machine

/-! ## The queue, the clock and reset -/

/-- A step takes the command at the front of the queue and runs it on the queue's rest (the model's choice, log 1). -/
def Obligations.StepRunsFrontCommand : Prop :=
  ∀ (c : Instr) (rest : List Instr) (s : State), step { s with pending := c :: rest } = exec c { s with pending := rest }

/-- On an empty queue one microsecond passes (the model's choice, log 4). Under RESET# nothing else changes. With no response timer due by
its end the arbiter acts on the heads whose linger time has ended. Each tag whose timer is due by its end expires (R77, R84): STALE is
set, and in RUNNING mode, which stays, the tag is STALE, its flag telling whether a posted entry used it. A timer that alone runs out at
its end expires as EXPIRY says (that the timers of one microsecond go one after the other is the model's choice, log 5). The manual's
times are exact to within one unit (R60, R77); that the timers here are exact is the model's choice (log 25). -/
def Obligations.EmptyQueueIsOneMicrosecond : Prop :=
  ∀ s : State, s.pending = [] →
    (s.resetHeld = true → step s = .next { s with now := s.now + 1 }) ∧
    (s.resetHeld = false → (∀ t, ∀ tr ∈ (s.tag t).transaction, s.now + 1 < tr.deadline) →
      step s = .next ({ s with now := s.now + 1 } : State).arbitrate) ∧
    (s.resetHeld = false → ∃ u, step s = .next u ∧ u.now = s.now + 1 ∧ (s.mode = .running → u.mode = .running) ∧
      ∀ t, ∀ tr ∈ (s.tag t).transaction, tr.deadline ≤ s.now + 1 →
        u.eventSet .stale = true ∧ (s.mode = .running → u.tag t = .stale tr.user.isEntry)) ∧
    (s.resetHeld = false → 1 ≤ s.timeout → ∀ t, ∀ tr ∈ (s.tag t).transaction, tr.deadline = s.now + 1 →
      (∀ x, x ≠ t → ∀ y ∈ (s.tag x).transaction, s.now + 1 < y.deadline) → step s = exec (.expiry t) s)

/-- The state right after reset holds every value that the manual gives for power-on (R3, R5, R18, R54, R73, R90, R101, R116, R136,
R144, R155). Of the rest, the queue is empty (log 1). -/
def Obligations.ResetValues : Prop :=
  let s := State.reset
  (∀ a, s.area a =
    { state := .free, master := none, size := 32, policy := .carryOn, escalate := .never, retry := 1, linger := 0, highWater := 0,
      merge := true, pendingOp := none, lastOutcome := .nothing, queue := [], inShutdown := false }) ∧
  (∀ m, s.master m =
    { joinedArea := none, detachingArea := none, pendingCount := 0, firstFault := none, throughSeen := false, context := .idle }) ∧
  (∀ t, s.tag t = .free) ∧ s.holdList = [] ∧ s.pointer = 0 ∧ s.faultLog = [] ∧ s.overflowCount = 0 ∧ s.recordCounter = 0 ∧
  s.rstreq = false ∧ s.events = 0 ∧ s.alertMask = 0x487#11 ∧ s.alert = false ∧ s.timeout = 500 ∧ s.arbitration = .roundRobin ∧
  s.overflowEscalates = false ∧ s.frame = .waiting ∧ s.mode = .running ∧ s.responses = [] ∧
  s.resetRecord = { cause := .power, heldLost := 0, issuedUncertain := 0, unreadFaults := 0, overflow := 0, requested := false } ∧
  s.poolOccupancy = 0 ∧ s.drainTagCount = 0 ∧ (∀ a, s.urgent a = false ∧ s.blockedBy a = none ∧ s.lingerTimer a = none) ∧
  s.pending = []

/-- The state right after reset meets every invariant that the statements below say each step keeps. -/
def Obligations.ResetStateIsSafe : Prop :=
  let s := State.reset
  s.PoolWithin ∧ s.SettingsLegal ∧ s.AccountsExact ∧ s.LogBounded ∧ s.DrainTagsBounded ∧ s.IssuedBounded ∧ s.OneTagPerLine ∧
    s.TagsAgree ∧ s.AnswersBounded ∧ s.JoinsAgree ∧ s.Settled ∧ s.TestsMade

/-- POWER_ON gives every piece of state its power-on value, with the straps as sampled, and RESET# held from power-on is part of it: no
pin reset is taken until the first release (R144). RESET_RELEASE samples the straps and changes nothing else (R159). The memory
controller's line and the queue stay, and the clock starts again (the model's choice, log 1, log 4, log 10). -/
def Obligations.PowerOnAndRelease : Prop :=
  ∀ (s : State) (straps later : BitVec 2) (low : Bool),
    exec (.powerOn straps low) s =
      .next { State.reset with straps := straps, resetHeld := low, memoryReady := s.memoryReady, pending := s.pending } ∧
    exec (.resetRelease later) s = .next { s with straps := later, resetHeld := false } ∧
    ∀ t, exec (.powerOn straps true) s = .next t → exec .pinReset t = .next t

/-- PIN_RESET: the live entries are counted, the log's length, the overflow count and RSTREQ are taken, all into the Reset Record, and
every block takes its pin-reset value; the record counter is kept (R102, R143, R145). A frame in progress is abandoned (R117). The
posting order goes on, and the clock, the controller's line and the queue stay (the model's choice, log 17, log 4, log 10, log 1). While
RESET# stays asserted there is no second pin reset (the model's choice, log 20). -/
def Obligations.PinResetCountsAndResets : Prop :=
  ∀ s : State,
    (s.resetHeld = false → ∃ t, exec .pinReset s = .next t ∧
      t.resetRecord.cause = .pin ∧
      t.resetRecord.heldLost = (allAreas.map fun a => ((s.area a).queue.filter fun e => !e.isIssued).length).sum ∧
      t.resetRecord.issuedUncertain = (allAreas.map fun a => ((s.area a).queue.filter Entry.isIssued).length).sum ∧
      t.resetRecord.unreadFaults = s.faultLog.length ∧ t.resetRecord.overflow = s.overflowCount ∧
      t.resetRecord.requested = s.rstreq ∧
      t = { State.reset with
        resetRecord := t.resetRecord, recordCounter := s.recordCounter, resetHeld := true
        frame := if s.frame = .waiting then .waiting else .abandoned
        nextPlace := s.nextPlace, straps := s.straps, memoryReady := s.memoryReady, now := s.now, pending := s.pending }) ∧
    (s.resetHeld = true → exec .pinReset s = .next s)

/-- While RESET# stays asserted the bridge stays at its values: it takes no fabric request, no completion and no management frame
(R143). -/
def Obligations.HeldResetTakesNothing : Prop :=
  ∀ (s : State) (c : Instr), s.resetHeld = true → ¬ outlivesReset c → exec c s = .next s

/-! ## The fabric port -/

/-- A request presented while the response queue holds an answer, or under RESET#, is not taken (R148; that the command is then spent
is the model's choice, log 7). A second request of a master is answered ERROR PROTOCOL (R6, R149), and so is a request of an unlisted
kind whatever the master's context (R147); nothing else changes. -/
def Obligations.RequestsTurnedAway : Prop :=
  ∀ (s : State) (m : MasterId) (line : Line) (mask : Mask) (strict : Bool) (data : LineData) (kind : BitVec 2),
    (s.responses ≠ [] ∨ s.resetHeld = true →
      exec (.write m line mask strict data) s = .next s ∧ exec (.read m line mask) s = .next s ∧ exec (.sync m) s = .next s ∧
        exec (.unknownKindRequest m kind) s = .next s) ∧
    (s.responses = [] → s.resetHeld = false →
      let refused := { s with responses := [{ master := m, body := .error .protocol }] }
      (s.context m ≠ .idle →
        exec (.write m line mask strict data) s = .next refused ∧ exec (.read m line mask) s = .next refused ∧
          exec (.sync m) s = .next refused) ∧
        exec (.unknownKindRequest m kind) s = .next refused)

/-- R20: a WRITE of no bytes is answered OKAY at once, and nothing else changes. -/
def Obligations.ZeroMaskWriteAnswered : Prop :=
  ∀ (s : State) (m : MasterId) (line : Line) (strict : Bool) (data : LineData), s.takesRequest m →
    exec (.write m line 0 strict data) s = .next { s with responses := [{ master := m, body := .okay }] }

/-- R21: a WRITE of a master whose joined area is HALTED is answered ERROR HALTED at once, and nothing else changes. -/
def Obligations.HaltedAreaRefusesWrite : Prop :=
  ∀ (s : State) (m : MasterId) (a : AreaId) (line : Line) (mask : Mask) (strict : Bool) (data : LineData),
    s.takesRequest m → mask ≠ 0 → (s.master m).joinedArea = some a → (s.area a).state = .halted →
    exec (.write m line mask strict data) s = .next { s with responses := [{ master := m, body := .error .halted }] }

/-- A write is merged into the tail entry of its area exactly under the conditions of R22 and R23. -/
def Obligations.MergeConditions : Prop :=
  ∀ (s : State) (a : AreaId) (w : WriteReq) (e : Entry),
    s.mergeTarget a w = some e ↔
      w.strict = false ∧ (s.area a).merge = true ∧ (∃ q, (s.area a).queue = q ++ [e]) ∧ e.state = .held ∧ e.line = w.line ∧
        e.strict = false ∧
        (∀ b, b ≠ a → ∀ x ∈ (s.area b).queue, x.line = w.line → x.place ≤ e.place) ∧
        (∀ m r, (s.context m).through = some r → r.line = w.line → r.mark ≤ e.place) ∧
        (∀ mark, (s.area a).pendingOp = some (.purge mark) → mark ≤ e.place)

/-- A WRITE of a master whose joined area is JOINED: merged into the tail (R24), posted as a new entry (R25) or as a strict one that its
master waits for (R30), or made to wait for a slot (R26). Then the arbiter acts (R65; within the command, log 3). -/
def Obligations.JoinedWriteDecided : Prop :=
  ∀ (s : State) (m : MasterId) (a : AreaId) (line : Line) (mask : Mask) (strict : Bool) (data : LineData),
    s.takesRequest m → mask ≠ 0 → (s.master m).joinedArea = some a → (s.area a).state = .joined →
    let w : WriteReq := { line := line, mask := mask, strict := strict
                          data := Vector.ofFn fun i => if mask.getLsbD i then data[i] else 0#8 }
    (∀ q e, s.mergeTarget a w = some e → (s.area a).queue = q ++ [e] →
      exec (.write m line mask strict data) s =
        .next ((s.setQueue a (q ++ [{ e with
          mask := e.mask ||| mask
          data := Vector.ofFn fun i => if mask.getLsbD i then data[i] else e.data[i] }])).answer m .okay).arbitrate) ∧
    (s.mergeTarget a w = none → (s.area a).occupancy < (s.area a).size →
      let posted : State :=
        { s.setQueue a ((s.area a).queue ++ [s.newEntry line mask strict data]) with nextPlace := s.nextPlace + 1 }
      exec (.write m line mask strict data) s =
        .next (if strict then posted.setContext m (.strictWait s.nextPlace) else posted.answer m .okay).arbitrate) ∧
    (s.mergeTarget a w = none → ¬ (s.area a).occupancy < (s.area a).size →
      exec (.write m line mask strict data) s = .next (s.setContext m (.postingWait w)).arbitrate)

/-- A WRITE of a master with no joined area is a through-write (R34): refused ERROR HALTED if a HALTED area holds its line (R35); else it
takes its mark, and is issued or waits by whether a live entry posted before the mark, or a BUSY tag, holds its line (R36). That one whose
line is clear stands as the last claimant while the arbiter acts, and takes a place or RETRY only if it was not granted, is the model's
choice (log 21). -/
def Obligations.ThroughWriteDecided : Prop :=
  ∀ (s : State) (m : MasterId) (line : Line) (mask : Mask) (strict : Bool) (data : LineData),
    s.takesRequest m → mask ≠ 0 → (s.master m).joinedArea = none →
    let u := s.seenThrough m
    let waiting := u.setContext m (.throughWait
      { line := line, mask := mask, data := Vector.ofFn fun i => if mask.getLsbD i then data[i] else 0#8, mark := s.nextPlace } .inHold)
    let halted := ∃ a, (s.area a).state = .halted ∧ ∃ e ∈ (s.area a).queue, e.line = line
    let clear := (∀ a, ∀ e ∈ (s.area a).queue, e.line = line → s.nextPlace ≤ e.place) ∧
      ∀ t, ∀ tr ∈ (s.tag t).transaction, tr.request.line ≠ line
    (halted → exec (.write m line mask strict data) s = .next (u.answer m (.error .halted))) ∧
    (¬ halted → clear → exec (.write m line mask strict data) s = .next (waiting.offeredBehind m)) ∧
    (¬ halted → ¬ clear → exec (.write m line mask strict data) s = .next (waiting.heldBehind m))

/-- R41: a READ of no bytes is answered OKAY at once with 00H in every byte, and nothing else changes. -/
def Obligations.ZeroMaskReadAnswered : Prop :=
  ∀ (s : State) (m : MasterId) (line : Line), s.takesRequest m →
    exec (.read m line 0) s =
      .next { s with responses := [{ master := m, body := .okayData (Vector.replicate 32 0#8) }] }

/-- A fully covered READ is forwarded at once, and nothing else changes: each byte asked for comes from the entry posted latest among
those that mark it, in any area, and the others are 00H (R42, R43). -/
def Obligations.CoveredReadForwarded : Prop :=
  ∀ (s : State) (m : MasterId) (line : Line) (mask : Mask), s.takesRequest m → mask ≠ 0 → s.fullyCovered line mask →
    ∃ data : LineData,
      exec (.read m line mask) s = .next { s with responses := [{ master := m, body := .okayData data }] } ∧
      ∀ i : Fin 32,
        (mask.getLsbD i = true → ∃ a, ∃ e ∈ (s.area a).queue, e.line = line ∧ e.mask.getLsbD i = true ∧ data[i] = e.data[i] ∧
          ∀ b, ∀ x ∈ (s.area b).queue, x.line = line → x.mask.getLsbD i = true → x.place ≤ e.place) ∧
        (mask.getLsbD i = false → data[i] = 0#8)

/-- A READ that is not covered: refused ERROR HALTED if a HALTED area holds its line (R45); else issued or made to wait by whether any
live entry or BUSY tag holds its line (R46). That one whose line is clear stands as the last claimant while the arbiter acts, and takes a
place or RETRY only if it was not granted, is the model's choice (log 21). -/
def Obligations.UncoveredReadDecided : Prop :=
  ∀ (s : State) (m : MasterId) (line : Line) (mask : Mask), s.takesRequest m → mask ≠ 0 → ¬ s.fullyCovered line mask →
    let waiting := s.setContext m (.readWait { line := line, mask := mask } .inHold)
    let halted := ∃ a, (s.area a).state = .halted ∧ ∃ e ∈ (s.area a).queue, e.line = line
    let clear := (∀ a, ∀ e ∈ (s.area a).queue, e.line ≠ line) ∧ ∀ t, ∀ tr ∈ (s.tag t).transaction, tr.request.line ≠ line
    (halted → exec (.read m line mask) s = .next { s with responses := [{ master := m, body := .error .halted }] }) ∧
    (¬ halted → clear → exec (.read m line mask) s = .next (waiting.offeredBehind m)) ∧
    (¬ halted → ¬ clear → exec (.read m line mask) s = .next (waiting.heldBehind m))

/-- SYNC (R91): on the halt terms while the joined area is HALTED (R95); waiting, with its mark, while the joined or detaching area holds
a live entry (R92); answered from the master record otherwise (R93). -/
def Obligations.SyncDecided : Prop :=
  ∀ (s : State) (m : MasterId), s.takesRequest m →
    (∀ a, (s.master m).joinedArea = some a → (s.area a).state = .halted →
      exec (.sync m) s = .next (s.syncAnswered m (.error .halted))) ∧
    (∀ a, (s.master m).joinedArea = some a ∧ (s.area a).state ≠ .halted ∨
        (s.master m).joinedArea = none ∧ (s.master m).detachingArea = some a →
      ((s.area a).queue ≠ [] → exec (.sync m) s = .next (s.setContext m (.syncWait s.nextPlace)).arbitrate) ∧
      ((s.area a).queue = [] → exec (.sync m) s = .next (s.syncAnswered m .okay))) ∧
    ((s.master m).joinedArea = none → (s.master m).detachingArea = none → exec (.sync m) s = .next (s.syncAnswered m .okay))

/-- ANSWER_DELIVERY: the oldest answer leaves the response queue, and nothing else changes. At the end of a change that began with n
answers in the response queue, those behind the first n are the answers that the change has composed, in ascending order of master
number (R148; which events make one change is the model's choice, log 13). -/
def Obligations.AnswerDelivered : Prop :=
  ∀ (s : State) (x : Answer) (rest : List Answer) (n : Nat),
    (s.resetHeld = false →
      (s.responses = x :: rest → exec .answerDelivery s = .next { s with responses := rest }) ∧
      (s.responses = [] → exec .answerDelivery s = .next s)) ∧
    ∃ composed, (s.conclude n).responses = s.responses.take n ++ composed ∧ composed.Perm (s.responses.drop n) ∧
      composed.Pairwise fun x y => x.master ≤ y.master

/-! ## The Drain Engine and its arbiter -/

/-- The area's head is the oldest entry in HELD or REISSUE: every entry before it is ISSUED (R55). It is offered exactly when R56 (caps),
R57 (line order), R58 (strict barrier) and R59 (linger) let it. -/
def Obligations.OfferedHeads : Prop :=
  ∀ (s : State) (a : AreaId),
    (∀ h, (s.area a).head = some h ↔ (∀ t, h.state ≠ .issued t) ∧
      ∃ before after, (s.area a).queue = before ++ h :: after ∧ ∀ e ∈ before, ∃ t, e.state = .issued t) ∧
    ((s.area a).head = none ↔ ∀ e ∈ (s.area a).queue, ∃ t, e.state = .issued t) ∧
    (s.offered a = true ↔ ∃ h, (s.area a).head = some h ∧
      ((s.area a).state = .joined ∨ (s.area a).state = .detaching) ∧ (s.area a).issuedCount < 4 ∧ s.drainTagCount < 6 ∧
      (∀ t, ∀ tr ∈ (s.tag t).transaction, tr.request.line ≠ h.line) ∧
      (∀ b, b ≠ a → ∀ e ∈ (s.area b).queue, e.line = h.line → h.place ≤ e.place) ∧
      (∀ m, ∀ r ∈ (s.context m).through, r.line = h.line → h.place < r.mark) ∧
      (h.strict = true → ∀ e ∈ (s.area a).queue, h.place ≤ e.place) ∧
      (h.state ≠ .held ∨ (s.area a).linger = 0 ∨ h.lingerStart + (s.area a).linger ≤ s.now ∨
        ((s.area a).highWater ≠ 0 ∧ (s.area a).highWater ≤ (s.area a).occupancy) ∨ s.urgent a = true))

/-- An area is urgent exactly while one of the eight causes of R62 holds. -/
def Obligations.UrgentAreas : Prop :=
  ∀ (s : State) (a : AreaId),
    s.urgent a = true ↔
      (∃ m mark, (s.area a).master = some m ∧ s.context m = .syncWait mark) ∨
      (∃ m, (s.area a).master = some m ∧ ((s.area a).state = .joined ∨ (s.area a).state = .halted) ∧
        ((∃ w, s.context m = .postingWait w) ∨ ∃ place, s.context m = .strictWait place)) ∨
      (∃ p ∈ s.holdList, p.released = false ∧ ∃ r, s.context p.master = .readWait r .inHold ∧
        ∃ e ∈ (s.area a).queue, e.line = r.line) ∨
      (∃ p ∈ s.holdList, p.released = false ∧ ∃ w, s.context p.master = .throughWait w .inHold ∧
        ∃ e ∈ (s.area a).queue, e.line = w.line ∧ e.place < w.mark) ∨
      (s.area a).pendingOp ≠ none ∨
      (s.mode = .shutdown ∧ (s.area a).queue ≠ []) ∨
      ∃ b h, b ≠ a ∧ (s.area b).head = some h ∧ ∃ e ∈ (s.area a).queue, e.line = h.line ∧ e.place < h.place

/-- Blocked-by names the other area whose entry for the head's line, posted before the head, was posted first; it is absent when there is
no such entry (R64). -/
def Obligations.BlockedByNamesFirst : Prop :=
  ∀ (s : State) (a : AreaId), s.QueuesOrdered →
    (∀ b, s.blockedBy a = some b → b ≠ a ∧ ∃ h, (s.area a).head = some h ∧ ∃ e ∈ (s.area b).queue, e.line = h.line ∧
      e.place < h.place ∧ ∀ c, c ≠ a → ∀ x ∈ (s.area c).queue, x.line = h.line → e.place ≤ x.place) ∧
    (s.blockedBy a = none → ∀ h, (s.area a).head = some h → ∀ b, b ≠ a → ∀ e ∈ (s.area b).queue, e.line = h.line →
      h.place ≤ e.place)

/-- The arbiter's choice by class (R66): urgent areas under the starvation guard, the first grantable context of the Hold List, urgent
areas, other areas; within a class of areas, the lowest number under FIXED and the first from the pointer on under ROUND_ROBIN (R67).
There is none exactly when nothing is offered. A place of the Hold List is grantable when it is released, its request waits there, and
no BUSY tag is on the request's line (R49, R68). -/
def Obligations.ArbiterChoice : Prop :=
  ∀ s : State,
    let guarded := ∀ t, (s.tag t).busyWithEntry = false
    let noMaster := ∀ p ∈ s.holdList, s.grantable p = false
    let noUrgent := ∀ a, ¬ (s.urgent a = true ∧ s.offered a = true)
    (∀ p, s.grantable p = true ↔ p.released = true ∧ ∃ line,
      ((∃ r, s.context p.master = .readWait r .inHold ∧ r.line = line) ∨ ∃ w, s.context p.master = .throughWait w .inHold ∧ w.line = line) ∧
      ∀ t, ∀ tr ∈ (s.tag t).transaction, tr.request.line ≠ line) ∧
    (∀ m, s.chosen = some (.master m) →
      (∃ before p after, s.holdList = before ++ p :: after ∧ p.master = m ∧ s.grantable p = true ∧
        ∀ q ∈ before, s.grantable q = false) ∧ (noUrgent ∨ ¬ guarded)) ∧
    (∀ a, s.chosen = some (.area a) →
      s.offered a = true ∧
      (if s.urgent a then guarded ∨ noMaster else noMaster ∧ noUrgent) ∧
      ∀ b, s.offered b = true → s.urgent b = s.urgent a →
        match s.arbitration with
        | .fixed => a ≤ b
        | .roundRobin => a - s.pointer ≤ b - s.pointer) ∧
    (s.chosen = none ↔ noMaster ∧ ∀ a, s.offered a = false)

/-- ARBITER_GRANT (that a command of its own makes one grant is the model's choice, log 3): the chosen claimant's request is issued on the
lowest-numbered FREE tag (R65, R69, R76; for a master's request R37 and R51), whose timer starts with the timeout in force (R77).
A controller that was ready for a number of requests is ready for one less, and withdraws ready after the last (R151; the number is the
model's choice, log 10). At a grant to an area the round-robin pointer is set to the number after it, 0 after 11 (R67), in RUNNING and
SHUTDOWN mode alike; that it moves in SHUTDOWN mode, though R73 speaks of keeping it, is the model's choice (log 32). Without a claimant,
a FREE tag or a port that can accept, nothing changes. -/
def Obligations.ArbiterGrantIssues : Prop :=
  ∀ (s : State) (t : TagId),
    let rest := match s.memoryReady with
      | .readyFor 0 => .withdrawn
      | .readyFor (n + 1) => .readyFor n
      | r => r
    (s.memoryReady ≠ .withdrawn → s.resetHeld = false → s.tag t = .free → (∀ u, u < t → s.tag u ≠ .free) →
      (∀ a h, s.chosen = some (.area a) → (s.area a).head = some h →
        exec .arbiterGrant s = .next
          { (s.setTag t (.busy
                { user := .entry a h.place, started := s.now, timeout := s.timeout
                  request := { kind := .write, line := h.line, mask := h.mask
                               data := Vector.ofFn fun i => if h.mask.getLsbD i then h.data[i] else 0#8 } })).updateEntry
              a h.place (fun e => { e with state := .issued t, attempts := e.attempts + 1 }) with
            pointer := if a = 11 then 0 else a + 1, memoryReady := rest }) ∧
      (∀ m w, s.chosen = some (.master m) → s.context m = .throughWait w .inHold →
        exec .arbiterGrant s = .next
          { (s.setTag t (.busy
                { user := .master m, started := s.now, timeout := s.timeout
                  request := { kind := .write, line := w.line, mask := w.mask
                               data := Vector.ofFn fun i => if w.mask.getLsbD i then w.data[i] else 0#8 } })).setContext
              m (.throughWait w (.issued t)) with
            holdList := s.holdList.filter fun p => p.master != m, memoryReady := rest }) ∧
      (∀ m r, s.chosen = some (.master m) → s.context m = .readWait r .inHold →
        exec .arbiterGrant s = .next
          { (s.setTag t (.busy
                { user := .master m, started := s.now, timeout := s.timeout
                  request := { kind := .read, line := r.line, mask := r.mask, data := Vector.replicate 32 0#8 } })).setContext
              m (.readWait r (.issued t)) with
            holdList := s.holdList.filter fun p => p.master != m, memoryReady := rest })) ∧
    (s.memoryReady = .withdrawn ∨ s.resetHeld = true ∨ s.chosen = none ∨ (∀ u, s.tag u ≠ .free) → exec .arbiterGrant s = .next s)

/-- The arbiter's grants change nothing but what they issue, the round-robin pointer and the controller's line (R65, R69, R76, R151). An
entry is as before, or was not ISSUED and is ISSUED, attempts one higher, on a tag that was FREE and is BUSY with it. A context is as
before, or its waiting request is issued on such a tag. A tag is as before, or was FREE and is BUSY, its timer started now, with a user
that waits on it. The Hold List keeps its order, and a place goes only where its request is issued. -/
def Obligations.ArbiterFrame : Prop :=
  ∀ s : State, s.QueuesOrdered →
    let t := s.arbitrate
    let granted (x : TagId) (user : TagUser) : Prop := s.tag x = .free ∧ ∃ tr, t.tag x = .busy tr ∧ tr.user = user
    t = { s with
      areas := t.areas, masters := t.masters, tags := t.tags, holdList := t.holdList, pointer := t.pointer
      memoryReady := t.memoryReady } ∧
    (∀ a, t.area a = { s.area a with queue := (t.area a).queue } ∧
      List.Forall₂ (fun e e' => e' = e ∨ (∀ x, e.state ≠ .issued x) ∧
        ∃ x, e' = { e with state := .issued x, attempts := e.attempts + 1 } ∧ granted x (.entry a e.place))
        (s.area a).queue (t.area a).queue) ∧
    (∀ m, t.master m = { s.master m with context := t.context m } ∧
      (t.context m = s.context m ∨ ∃ x, granted x (.master m) ∧
        ((∃ w, s.context m = .throughWait w .inHold ∧ t.context m = .throughWait w (.issued x)) ∨
          ∃ r, s.context m = .readWait r .inHold ∧ t.context m = .readWait r (.issued x)))) ∧
    (∀ x, t.tag x = s.tag x ∨ s.tag x = .free ∧
      ∃ tr, t.tag x = .busy tr ∧ tr.started = s.now ∧ tr.timeout = s.timeout ∧ t.userWaits x tr.user = true) ∧
    t.holdList.Sublist s.holdList ∧ (∀ p ∈ s.holdList, p ∈ t.holdList ∨ t.context p.master ≠ s.context p.master)

/-! ## The memory port -/

/-- MEMORY_READY and LINGER_EXPIRY: the withdrawal of ready changes the line alone, and its return, until it changes or for a number of
requests (the model's choice, log 10), lets the arbiter act (R65, R151). The end of a head's linger time, while the timer runs (R60):
time passes up to it, and the arbiter acts (that the command makes time pass is the model's choice, log 6); an area whose linger timer
is idle is left alone. Time passes as on an empty queue, a microsecond at a time; where no timer runs out on the way and the arbiter
has nothing to do, only the clock moves. The linger timer is exact to within one unit (R60), and so are the response timers (R77); that
they are exact here is the model's choice (log 25). -/
def Obligations.ReadyAndLinger : Prop :=
  ∀ (s : State) (a : AreaId) (level : Ready),
    exec (.memoryReady .withdrawn) s = .next { s with memoryReady := .withdrawn } ∧
    (level ≠ .withdrawn → exec (.memoryReady level) s = .next ({ s with memoryReady := level } : State).arbitrate) ∧
    (s.resetHeld = false → ∀ h, (s.area a).head = some h → h.state = .held → (s.area a).linger ≠ 0 →
      let ending := h.lingerStart + (s.area a).linger
      s.now < ending →
      exec (.lingerExpiry a) s = .next (s.reach ending).arbitrate ∧
      (s.now + 1 < ending → s.pending = [] → ∃ u, step s = .next u ∧ s.reach ending = u.reach ending) ∧
      ((∀ t, ∀ tr ∈ (s.tag t).transaction, ending ≤ tr.deadline) →
        (∀ k, s.now < k → k < ending → ({ s with now := k } : State).arbitrate = { s with now := k }) →
        exec (.lingerExpiry a) s = .next ({ s with now := ending } : State).arbitrate)) ∧
    (s.resetHeld = false → (∀ h, (s.area a).head = some h →
        h.state ≠ .held ∨ (s.area a).linger = 0 ∨ h.lingerStart + (s.area a).linger ≤ s.now) →
      exec (.lingerExpiry a) s = .next s)

/-- A completion on a FREE tag is discarded, and one on a STALE tag frees it and nothing else, for the arbiter to grant (R78, R86). -/
def Obligations.UnmatchedCompletion : Prop :=
  ∀ (s : State) (t : TagId) (result : BitVec 2) (data : LineData), s.resetHeld = false →
    (s.tag t = .free → exec (.completion t result data) s = .next s) ∧
    (∀ b, s.tag t = .stale b → exec (.completion t result data) s = .next (s.setTag t .free).arbitrate)

/-- DONE on a tag BUSY with a posted entry frees the tag and retires the entry (R78, R80); a strict entry's master is answered OKAY (R31);
then those who may wait on it are told (R12) and the change ends. In the next state no entry has its place. -/
def Obligations.DoneRetiresEntry : Prop :=
  ∀ (s : State) (t : TagId) (data : LineData) (tr : Transaction) (a : AreaId) (e : Entry),
    s.resetHeld = false → s.tag t = .busy tr → tr.user = .entry a e.place → (s.area a).entryAt e.place = some e →
    let freed := (s.setTag t .free).setQueue a ((s.area a).queue.filter fun x => x.place != e.place)
    let answered := if e.strict then freed.answerStrict a e.place .okay else freed
    exec (.completion t 0#2 data) s = .next ((answered.settleArea a).conclude s.responses.length) ∧
    (e.place < s.nextPlace →
      ∀ s', exec (.completion t 0#2 data) s = .next s' → ∀ x ∈ (s'.area a).queue, x.place ≠ e.place)

/-- A failure on a tag BUSY with a posted entry. FAIL, or an unlisted result, with attempts not above the retry limit and no PURGE pending
returns the entry to REISSUE, its attempts kept (R10, R81, R153); but a strict entry of a HALTED area is removed and its master
answered ERROR HALTED (R32). With attempts above the limit or a PURGE pending, and DECODE at any time, it is final (R81, R82): the
Fault Unit handles it, and those who may wait on the area are told. -/
def Obligations.FailedAttemptDecided : Prop :=
  ∀ (s : State) (t : TagId) (result : BitVec 2) (data : LineData) (tr : Transaction) (a : AreaId) (e : Entry),
    s.resetHeld = false → s.tag t = .busy tr → tr.user = .entry a e.place → (s.area a).entryAt e.place = some e →
    let freed := s.setTag t .free
    let n := s.responses.length
    let purging := ∃ mark, (s.area a).pendingOp = some (.purge mark)
    (result = 1#2 ∨ result = 3#2 → e.attempts ≤ (s.area a).retry → ¬ purging →
      (e.strict = false ∨ (s.area a).state ≠ .halted →
        exec (.completion t result data) s =
          .next ((freed.updateEntry a e.place fun x => { x with state := .reissue }).conclude n)) ∧
      (e.strict = true → (s.area a).state = .halted →
        let removed := freed.setQueue a ((s.area a).queue.filter fun x => x.place != e.place)
        exec (.completion t result data) s =
          .next (((removed.answerStrict a e.place (.error .halted)).settleArea a).conclude n))) ∧
    (result = 1#2 ∨ result = 3#2 → (s.area a).retry < e.attempts ∨ purging →
      exec (.completion t result data) s = .next (((freed.finalFailure a e .fail).settleArea a).conclude n)) ∧
    (result = 2#2 → exec (.completion t result data) s = .next (((freed.finalFailure a e .decode).settleArea a).conclude n))

/-- The Fault Unit's handling of a final failure (R103): the record, numbered as it is made; the retirement; the charge, or for a strict
entry the answer ERROR (R31, R98); then the area's policy: under CONTINUE, and under HALT in an area that is not JOINED, nothing more
(R107, R108); under HALT in a JOINED area the halt (R108); under DISCARD the drop (R110); and last the escalation that the area's
setting asks for: RSTREQ asserted and ESCALATED set (R115). -/
def Obligations.FinalFailureHandled : Prop :=
  ∀ (s : State) (a : AreaId) (m : MasterId) (e : Entry) (how : Failure), (s.area a).master = some m →
    let record : FaultRecord :=
      { number := s.recordCounter, master := m, area := some a, line := e.line, mask := some e.mask, cause := how.cause
        attempts := e.attempts, entries := 1, disposition := if e.strict then .direct else .pending
        escalated := decide ((s.area a).escalate = .resetRequest) }
    let retired := (s.makeRecord record).setQueue a ((s.area a).queue.filter fun x => x.place != e.place)
    let r := s.master m
    let told : State :=
      if e.strict then (if s.context m = .strictWait e.place then retired.answer m (.error how.reason) else retired)
      else retired.setMaster m
        { r with
          pendingCount := min 255 (r.pendingCount + 1)
          firstFault := if r.firstFault = none then some { line := e.line, cause := how.cause } else r.firstFault }
    let escalated (t : State) : State :=
      if (s.area a).escalate = .resetRequest then { t with rstreq := true, events := t.events ||| 0x400#11 } else t
    ((s.area a).policy = .carryOn ∨ (s.area a).policy = .halt ∧ (s.area a).state ≠ .joined →
      s.finalFailure a e how = escalated told) ∧
    ((s.area a).policy = .halt → (s.area a).state = .joined → s.finalFailure a e how = escalated (told.haltArea a)) ∧
    ((s.area a).policy = .discard →
      s.finalFailure a e how = escalated (told.dropEntries a .discarded fun x => !x.strict && !x.isIssued))

/-- A halt (R108, R109): the area is HALTED with no strict entry left unissued, HALT is set, a pending DRAIN ends CUT_SHORT with DRAINED,
and these requests are answered, and no others: ERROR HALTED for the write that waits for a slot (R28) or for a removed strict entry
(R32), and for each unreleased read (R50) and through-write (R38) of the Hold List that waits on an entry left in the area, whose
places go; the waiting SYNC ERROR HALTED, or with a count above 0 DEFERRED, which clears the account (R95, R96). That the strict entries
are removed first, so that a held request which waited on such an entry alone is not refused, is the model's choice (log 14): R109 puts
all into one change and gives no order. The answered contexts are IDLE. The other areas and masters, the tags and the fault records stay. -/
def Obligations.HaltReachesWaiters : Prop :=
  ∀ (s : State) (a : AreaId),
    let t := s.haltArea a
    let kept := (s.area a).queue.filter fun e => !(e.strict && !e.isIssued)
    let waits (p : HoldPlace) : Prop := p.released = false ∧
      ((∃ r, s.context p.master = .readWait r .inHold ∧ ∃ e ∈ kept, e.line = r.line) ∨
        ∃ w, s.context p.master = .throughWait w .inHold ∧ ∃ e ∈ kept, e.line = w.line ∧ e.place < w.mark)
    (t.area a).state = .halted ∧ (t.area a).queue = kept ∧ t.eventSet .halt = true ∧
    (∀ mark, (s.area a).pendingOp = some (.drain mark) →
      (t.area a).pendingOp = none ∧ (t.area a).lastOutcome = .cutShort ∧ t.eventSet .drained = true) ∧
    (∀ p, p ∈ t.holdList ↔ p ∈ s.holdList ∧ ¬ waits p) ∧
    (∃ added, t.responses = s.responses ++ added ∧ (s.HoldAgrees → (added.map Answer.master).Nodup) ∧
      (∀ x, x ∈ added ↔
        (x.body = .error .halted ∧ (∃ p ∈ s.holdList, waits p ∧ p.master = x.master)) ∨
        ((s.area a).master = some x.master ∧
          ((x.body = .error .halted ∧ ((∃ w, s.context x.master = .postingWait w) ∨
              ∃ e ∈ (s.area a).queue, e.strict = true ∧ (∀ u, e.state ≠ .issued u) ∧ s.context x.master = .strictWait e.place)) ∨
            (∃ mark, s.context x.master = .syncWait mark) ∧
              x.body = if (s.master x.master).pendingCount = 0 then .error .halted
                else .deferred (s.master x.master).pendingCount (s.master x.master).firstFault))) ∧
      ∀ m, t.context m = (if m ∈ added.map Answer.master then .idle else s.context m)) ∧
    (∀ m,
      let deferred := (s.area a).master = some m ∧ (∃ mark, s.context m = .syncWait mark) ∧ (s.master m).pendingCount ≠ 0
      (¬ deferred → t.master m = { s.master m with context := t.context m }) ∧
        (deferred → t.master m = { s.master m with context := .idle, pendingCount := 0, firstFault := none })) ∧
    (∀ b, b ≠ a → t.area b = s.area b) ∧ t.tags = s.tags ∧ t.faultLog = s.faultLog ∧ t.recordCounter = s.recordCounter

/-- The result on a tag BUSY with a master's request answers the master and is never issued again (R39, R52, R78, R83): a read with the
bytes asked for and 00H elsewhere, a through-write OKAY; a failure ERROR, and for a through-write a DIRECT record (an unlisted result
counts as FAIL, R153). -/
def Obligations.MasterRequestAnswered : Prop :=
  ∀ (s : State) (t : TagId) (data : LineData) (tr : Transaction) (m : MasterId),
    s.resetHeld = false → s.tag t = .busy tr → tr.user = .master m →
    let u := s.setTag t .free
    let n := s.responses.length
    (∀ r, s.context m = .readWait r (.issued t) →
      exec (.completion t 0#2 data) s =
        .next ((u.answer m (.okayData (Vector.ofFn fun i => if r.mask.getLsbD i then data[i] else 0#8))).conclude n) ∧
      exec (.completion t 1#2 data) s = .next ((u.answer m (.error .memory)).conclude n) ∧
      exec (.completion t 2#2 data) s = .next ((u.answer m (.error .decode)).conclude n) ∧
      exec (.completion t 3#2 data) s = .next ((u.answer m (.error .memory)).conclude n)) ∧
    (∀ w, s.context m = .throughWait w (.issued t) →
      let failed (cause : FaultCause) : State := u.makeRecord
        { number := s.recordCounter, master := m, area := none, line := w.line, mask := some w.mask, cause := cause, attempts := 1
          entries := 1, disposition := .direct, escalated := false }
      exec (.completion t 0#2 data) s = .next ((u.answer m .okay).conclude n) ∧
      exec (.completion t 1#2 data) s = .next (((failed .fail).answer m (.error .memory)).conclude n) ∧
      exec (.completion t 2#2 data) s = .next (((failed .decode).answer m (.error .decode)).conclude n) ∧
      exec (.completion t 3#2 data) s = .next (((failed .fail).answer m (.error .memory)).conclude n))

/-- A record takes the counter's number and FAULT is set; with room it is stored as the newest; in a full log it is lost, the overflow
count rises by its entries, saturating, OVERFLOW is set, and with "overflow escalates" on RSTREQ is asserted and ESCALATED set
(R102, R104, R105, R115). Nothing else changes. -/
def Obligations.RecordMade : Prop :=
  ∀ (s : State) (r : FaultRecord),
    (s.faultLog.length < 16 → s.makeRecord r =
      { s with faultLog := s.faultLog ++ [{ r with number := s.recordCounter }], recordCounter := s.recordCounter + 1
               events := s.events ||| 0x001#11 }) ∧
    (¬ s.faultLog.length < 16 → s.overflowEscalates = false → s.makeRecord r =
      { s with recordCounter := s.recordCounter + 1, overflowCount := min 65535 (s.overflowCount + r.entries)
               events := s.events ||| 0x003#11 }) ∧
    (¬ s.faultLog.length < 16 → s.overflowEscalates = true → s.makeRecord r =
      { s with recordCounter := s.recordCounter + 1, overflowCount := min 65535 (s.overflowCount + r.entries), rstreq := true
               events := s.events ||| 0x403#11 })

/-- EXPIRY of a BUSY tag (R84, R85). Time passes up to the timer's end, unless it has come (the model's choice, log 5); where no timer runs
out before and the arbiter has nothing to do on the way, only the clock moves. Then the tag becomes STALE, its flag telling whether a
posted entry used it, STALE is set, and EXHAUSTED too when it is the eighth. The user is handled as timed out: an entry as a failed
attempt, which is retried or final (R81, R82; for a strict entry of a HALTED area R32), a read answered ERROR TIMEOUT (R52), a
through-write so too, with its DIRECT record (R39). Outside a soft reset the tag is STALE afterwards. No timer runs for a FREE or STALE
tag (R77). R77 makes a timer exact to within one unit; that the ends here, and their order, are exact is the model's choice (log 25). -/
def Obligations.ExpiryMakesTagStale : Prop :=
  ∀ (s : State) (t : TagId), s.resetHeld = false →
    (∀ tr, s.tag t = .busy tr → ∃ v : State, v.tag t = .busy tr ∧ v.now = max s.now (tr.started + tr.timeout) ∧
      (tr.started + tr.timeout ≤ s.now → v = s) ∧
      (s.now + 1 < tr.started + tr.timeout → s.pending = [] → ∃ w, step s = .next w ∧ v = w.reach (tr.started + tr.timeout)) ∧
      ((∀ x, ∀ y ∈ (s.tag x).transaction, tr.started + tr.timeout ≤ y.started + y.timeout) →
        (∀ k, s.now < k → k < tr.started + tr.timeout → ({ s with now := k } : State).arbitrate = { s with now := k }) →
        v = { s with now := max s.now (tr.started + tr.timeout) }) ∧
      let eighth := ∀ u, u ≠ t → (v.tag u).isStale = true
      let n := v.responses.length
      ∃ u : State, u = { v.setTag t (.stale tr.user.isEntry) with events := u.events } ∧
        (eighth → u.events = v.events ||| 0x0C0#11) ∧ (¬ eighth → u.events = v.events ||| 0x040#11) ∧
        (∀ m r, tr.user = .master m → v.context m = .readWait r (.issued t) →
          exec (.expiry t) s = .next ((u.answer m (.error .timeout)).conclude n)) ∧
        (∀ m w, tr.user = .master m → v.context m = .throughWait w (.issued t) →
          exec (.expiry t) s = .next (((u.makeRecord
            { number := v.recordCounter, master := m, area := none, line := w.line, mask := some w.mask, cause := .timeout, attempts := 1
              entries := 1, disposition := .direct, escalated := false }).answer m (.error .timeout)).conclude n)) ∧
        (∀ a e, tr.user = .entry a e.place → (v.area a).entryAt e.place = some e →
          let final := (v.area a).retry < e.attempts ∨ ∃ mark, (v.area a).pendingOp = some (.purge mark)
          (final → exec (.expiry t) s = .next (((u.finalFailure a e .expiry).settleArea a).conclude n)) ∧
          (¬ final → e.strict = true → (v.area a).state = .halted →
            exec (.expiry t) s =
              .next ((((u.setQueue a ((v.area a).queue.filter fun x => x.place != e.place)).answerStrict a e.place
                (.error .halted)).settleArea a).conclude n)) ∧
          (¬ final → e.strict = false ∨ (v.area a).state ≠ .halted →
            exec (.expiry t) s = .next ((u.updateEntry a e.place fun x => { x with state := .reissue }).conclude n))) ∧
        (s.mode = .running → ∃ s', exec (.expiry t) s = .next s' ∧ s'.tag t = .stale tr.user.isEntry)) ∧
    ((∀ tr, s.tag t ≠ .busy tr) → exec (.expiry t) s = .next s)

/-! ## The bridge's own steps

That these commands repeat tests which the rules make within other changes is the model's choice (log 2). -/

/-- POSTING_WAIT_RETRY (R27): with a slot free in the JOINED area, the waiting write is merged, posted and answered, or posted as a strict
entry; without a waiting write or a free slot only the arbiter acts (log 28). -/
def Obligations.PostingWaitDecidedAgain : Prop :=
  ∀ (s : State) (a : AreaId), s.resetHeld = false →
    (∀ m w, (s.area a).master = some m → s.context m = .postingWait w → (s.area a).state = .joined →
      (s.area a).occupancy < (s.area a).size →
      let entry : Entry :=
        { line := w.line, mask := w.mask, data := w.data, place := s.nextPlace, strict := w.strict, state := .held, attempts := 0
          lingerStart := s.now }
      let posted : State := { s.setQueue a ((s.area a).queue ++ [entry]) with nextPlace := s.nextPlace + 1 }
      (∀ e, s.mergeTarget a w = some e →
        exec (.postingWaitRetry a) s = .next ((s.mergeTail a w e).answer m .okay).arbitrate) ∧
      (s.mergeTarget a w = none →
        exec (.postingWaitRetry a) s =
          .next (if w.strict then posted.setContext m (.strictWait s.nextPlace) else posted.answer m .okay).arbitrate)) ∧
    ((∀ m, (s.area a).master = some m → ∀ w, s.context m ≠ .postingWait w) ∨ ¬ (s.area a).occupancy < (s.area a).size →
      exec (.postingWaitRetry a) s = .next s.arbitrate)

/-- HOLD_RELEASE (R48): the master's place is marked released when no BUSY tag is on the line of its waiting request and no live entry is,
for a through-write none posted before its mark; otherwise only the arbiter acts. SYNC_COMPLETION (R92, R93): the waiting SYNC is
answered from the master record once no entry of its area posted before its mark is live, and goes on waiting otherwise. -/
def Obligations.WaitersReleased : Prop :=
  ∀ (s : State) (m : MasterId), s.resetHeld = false →
    let released : State := { s with holdList := s.holdList.map fun p => if p.master = m then { p with released := true } else p }
    (∀ r, s.context m = .readWait r .inHold →
      let clear := (∀ a, ∀ e ∈ (s.area a).queue, e.line ≠ r.line) ∧ ∀ t, ∀ tr ∈ (s.tag t).transaction, tr.request.line ≠ r.line
      (clear → exec (.holdRelease m) s = .next released.arbitrate) ∧ (¬ clear → exec (.holdRelease m) s = .next s.arbitrate)) ∧
    (∀ w, s.context m = .throughWait w .inHold →
      let clear := (∀ a, ∀ e ∈ (s.area a).queue, e.line = w.line → w.mark ≤ e.place) ∧
        ∀ t, ∀ tr ∈ (s.tag t).transaction, tr.request.line ≠ w.line
      (clear → exec (.holdRelease m) s = .next released.arbitrate) ∧ (¬ clear → exec (.holdRelease m) s = .next s.arbitrate)) ∧
    ((∀ r, s.context m ≠ .readWait r .inHold) → (∀ w, s.context m ≠ .throughWait w .inHold) →
      exec (.holdRelease m) s = .next s.arbitrate) ∧
    (∀ mark a, s.context m = .syncWait mark → (s.master m).joinedArea = some a ∨
        (s.master m).joinedArea = none ∧ (s.master m).detachingArea = some a →
      ((∀ e ∈ (s.area a).queue, mark ≤ e.place) → exec (.syncCompletion m) s = .next (s.syncAnswered m .okay)) ∧
      ((∃ e ∈ (s.area a).queue, e.place < mark) → exec (.syncCompletion m) s = .next s)) ∧
    ((∀ mark, s.context m ≠ .syncWait mark) → exec (.syncCompletion m) s = .next s)

/-- DETACH_COMPLETION (R17), PURGE_END (R114) and DRAIN_END (R130). An emptied DETACHING area becomes FREE. A PURGE whose mark is passed
ends COMPLETE, and a HALTED area becomes JOINED, or in SHUTDOWN mode DETACHING with DETACH pending, and FREE if it is empty (R139); a
DETACHING area goes on with DETACH (R138). A DRAIN whose mark is passed ends COMPLETE, a DETACHING area going on with DETACH, and in a
HALTED area it ends CUT_SHORT. Each sets its event. DETACH_COMPLETION and PURGE_END then make the test of R141 and let the arbiter act,
as SOFT_RESET_END does, which in RUNNING mode is the arbiter alone; where the condition does not hold, that is all they do, and DRAIN_END
does nothing. -/
def Obligations.LongOperationsEnd : Prop :=
  ∀ (s : State) (a : AreaId), s.resetHeld = false →
    let r := s.area a
    let passed (mark : Nat) := ∀ e ∈ r.queue, mark ≤ e.place
    let goesOn (c : Instr) (u : State) : Prop :=
      ∃ t, exec c s = .next t ∧ exec .softResetEnd u = .next t ∧ (s.mode = .running → t = u.arbitrate)
    let left (m : MasterId) (events : EventWord) : State :=
      { (s.setArea a { r with state := .free, master := none, pendingOp := none, lastOutcome := .complete }).setMaster m
          { s.master m with joinedArea := if r.state = .halted then none else (s.master m).joinedArea, detachingArea := none } with
        events := s.events ||| events }
    (∀ m, r.master = some m → r.state = .detaching → r.queue = [] → r.pendingOp = some .detach →
      goesOn (.detachCompletion a) (left m 0x008#11)) ∧
    (r.state ≠ .detaching ∨ r.queue ≠ [] → goesOn (.detachCompletion a) s) ∧
    (∀ mark, r.pendingOp = some (.purge mark) → passed mark →
      let ended (state : AreaState) (op : Option LongOp) : State :=
        { s.setArea a { r with pendingOp := op, lastOutcome := .complete, state := state } with events := s.events ||| 0x010#11 }
      (r.state = .joined ∨ r.state = .halted ∧ s.mode = .running → goesOn (.purgeEnd a) (ended .joined none)) ∧
      (r.state = .detaching → r.queue ≠ [] → goesOn (.purgeEnd a) (ended .detaching (some .detach))) ∧
      (∀ m, r.master = some m →
        (r.state = .halted → s.mode = .shutdown → r.queue ≠ [] →
          goesOn (.purgeEnd a) ((ended .detaching (some .detach)).setMaster m
            { s.master m with joinedArea := none, detachingArea := some a })) ∧
        (r.state = .detaching ∨ r.state = .halted ∧ s.mode = .shutdown → r.queue = [] → goesOn (.purgeEnd a) (left m 0x018#11)))) ∧
    ((∀ mark, r.pendingOp = some (.purge mark) → ¬ passed mark) → r.state ≠ .detaching ∨ r.queue ≠ [] → goesOn (.purgeEnd a) s) ∧
    (∀ mark, r.pendingOp = some (.drain mark) →
      let ended (op : Option LongOp) (outcome : LastOutcome) : State :=
        { s.setArea a { r with pendingOp := op, lastOutcome := outcome } with events := s.events ||| 0x020#11 }
      (r.state = .joined → passed mark → exec (.drainEnd a) s = .next (ended none .complete)) ∧
      (r.state = .detaching → passed mark → exec (.drainEnd a) s = .next (ended (some .detach) .complete)) ∧
      (r.state = .halted → exec (.drainEnd a) s = .next (ended none .cutShort)) ∧
      (r.state ≠ .halted → ¬ passed mark → exec (.drainEnd a) s = .next s)) ∧
    ((∀ mark, r.pendingOp ≠ some (.drain mark)) → exec (.drainEnd a) s = .next s)

/-- SOFT_RESET_END (R141): in SHUTDOWN, with every area FREE and no tag BUSY, the STALE tags become FREE, sizes, settings, pointer and mask
return to their reset values (the last outcome stays in areas that took part), the Reset Record is written SOFT (R145), SHUTDOWN_DONE
is set and the mode is RUNNING; everything else is kept, and the arbiter acts. Otherwise only the arbiter acts. -/
def Obligations.SoftResetEnds : Prop :=
  ∀ s : State, s.resetHeld = false →
    let ended := s.mode = .shutdown ∧ (∀ a, (s.area a).state = .free) ∧ ∀ t, (s.tag t).isBusy = false
    (ended → exec .softResetEnd s = .next
      ({ s with
        areas := Vector.ofFn fun a =>
          { AreaRec.reset with lastOutcome := if (s.area a).inShutdown then (s.area a).lastOutcome else .nothing }
        tags := Vector.replicate 8 .free
        timeout := 500, arbitration := .roundRobin, pointer := 0, overflowEscalates := false, alertMask := 0x487#11
        resetRecord :=
          { cause := .soft, heldLost := 0, issuedUncertain := 0, unreadFaults := s.faultLog.length, overflow := s.overflowCount
            requested := s.rstreq }
        events := s.events ||| 0x200#11, mode := .running } : State).arbitrate) ∧
    (¬ ended → exec .softResetEnd s = .next s.arbitrate)

/-! ## The management port -/

/-- IDENTIFY, GET STATUS, GET AREA, GET MASTER, READ RESET RECORD and PEEK FAULT are answered in every mode and change nothing but the
frame (R106, R122 to R125, R135). Their replies are, byte by byte, what the layouts of Chapter 11 say, in the codes and conventions of
R157; that of IDENTIFY holds a revision that is a free value and not 00H (log 19). An argument out of range is answered RANGE, an empty
log EMPTY, with 00H in every byte of the reply (R121). -/
def Obligations.ReportsChangeNothing : Prop :=
  ∀ (s : State) (arg : Byte), s.takesCommand →
    let b (n : Nat) : Byte := BitVec.ofNat 8 n
    let flag (x : Bool) : Byte := if x then 1 else 0
    let number (x : Option Nat) : Byte := match x with
      | some n => b n
      | none => 0xFF
    let line (l : Line) : List Byte :=
      [b (l.toNat / 2 ^ 32), b (l.toNat / 2 ^ 24), b (l.toNat / 2 ^ 16), b (l.toNat / 2 ^ 8), b l.toNat]
    let cause (c : FaultCause) : Byte := match c with
      | .fail => 1
      | .decode => 2
      | .timeout => 3
      | .purged => 4
      | .discarded => 5
    let reset := s.resetRecord
    exec .identify s = .next (s.taken 1 .done [0x0A, 0x5C, 0x12, 0x40, Config.revision, 0x01, 0x80, 12, 16, 8]) ∧ Config.revision ≠ 0 ∧
    (let areas (v : AreaState) : Byte := b (allAreas.filter fun a => (s.area a).state = v).length
      let tagCode (t : TagId) : Nat := match s.tag t with
        | .free => 0
        | .busy _ => 1
        | .stale _ => 2
      let tags (c : Nat) : Byte := b (allTags.filter fun t => tagCode t = c).length
      let occupancy := (allAreas.map fun a => (s.area a).queue.length).sum
      exec .getStatus s = .next (s.taken 1 .done
        [(match s.mode with
            | .running => 0
            | .shutdown => 1),
          b (s.events.toNat / 256), b s.events.toNat, b (s.alertMask.toNat / 256), b s.alertMask.toNat,
          b ((if s.alert then 1 else 0) + (if s.rstreq then 2 else 0) + (if s.overflowEscalates then 4 else 0) +
            if s.arbitration = .fixed then 8 else 0),
          b (occupancy / 256), b occupancy, areas .free, areas .joined, areas .halted, areas .detaching, b s.holdList.length,
          b (tagCode 4 + 4 * tagCode 5 + 16 * tagCode 6 + 64 * tagCode 7),
          b (tagCode 0 + 4 * tagCode 1 + 16 * tagCode 2 + 64 * tagCode 3),
          tags 0, tags 1, tags 2, b s.drainTagCount, b s.faultLog.length, b (s.overflowCount / 256), b s.overflowCount,
          b (s.timeout / 256), b s.timeout])) ∧
    (∀ a : AreaId, arg.toNat = a.val →
      let r := s.area a
      exec (.getArea arg) s = .next (s.taken 2 .done
        [(match r.state with
            | .free => 0
            | .joined => 1
            | .halted => 2
            | .detaching => 3),
          number (r.master.map Fin.val), b r.size, b r.queue.length,
          (match r.policy with
            | .carryOn => 0
            | .halt => 1
            | .discard => 2),
          (match r.escalate with
            | .never => 0
            | .resetRequest => 1),
          b r.retry, b r.linger, b r.highWater, flag r.merge,
          (match r.pendingOp with
            | none => 0
            | some (.drain _) => 1
            | some (.purge _) => 2
            | some .detach => 3),
          (match r.lastOutcome with
            | .nothing => 0
            | .complete => 1
            | .cutShort => 2),
          number ((s.blockedBy a).map Fin.val), flag (s.urgent a), b (r.queue.filter Entry.isIssued).length])) ∧
    (12 ≤ arg.toNat → exec (.getArea arg) s = .next (s.taken 2 .range (List.replicate 15 0))) ∧
    (∀ m : MasterId, arg.toNat = m.val →
      let r := s.master m
      exec (.getMaster arg) s = .next (s.taken 2 .done
        ([number (r.joinedArea.map Fin.val), number (r.detachingArea.map Fin.val), b r.pendingCount] ++
          (match r.firstFault with
            | some f => cause f.cause :: line f.line
            | none => [0, 0, 0, 0, 0, 0]) ++
          [flag r.throughSeen,
            match r.context with
            | .idle => 0
            | .postingWait _ => 1
            | .strictWait _ => 2
            | .throughWait _ _ => 3
            | .readWait _ _ => 4
            | .syncWait _ => 5]))) ∧
    (16 ≤ arg.toNat → exec (.getMaster arg) s = .next (s.taken 2 .range (List.replicate 11 0))) ∧
    exec .readResetRecord s = .next (s.taken 1 .done
        [(match reset.cause with
            | .nothing => 0
            | .power => 1
            | .pin => 2
            | .soft => 3),
          b (reset.heldLost / 256), b reset.heldLost, b reset.issuedUncertain, b reset.unreadFaults, b (reset.overflow / 256), b reset.overflow,
          flag reset.requested]) ∧
    (∀ r rest, s.faultLog = r :: rest →
      let mask : Nat := match r.mask with
        | some m => m.toNat
        | none => 0
      exec .peekFault s = .next (s.taken 1 .done
        ([b (r.number.toNat / 256), b r.number.toNat, b r.master.val, number (r.area.map Fin.val)] ++ line r.line ++
          [b (mask / 2 ^ 24), b (mask / 2 ^ 16), b (mask / 2 ^ 8), b mask, cause r.cause, b r.attempts, b (r.entries / 256), b r.entries,
            b ((if r.disposition = .direct then 1 else 0) + if r.escalated then 2 else 0)]))) ∧
    (s.faultLog = [] → exec .peekFault s = .next (s.taken 1 .empty (List.replicate 18 0)))

/-- READ FAULT returns what PEEK FAULT returns and leaves the record in the log; the record leaves it at the eighth bit of the last reply
byte, once; a frame cut short before that leaves the log unchanged; an empty log is answered EMPTY (R106, R118). -/
def Obligations.ReadFaultRemovesAtLastByte : Prop :=
  ∀ s : State, s.takesCommand →
    (∀ r rest, s.faultLog = r :: rest →
      ∃ t, exec .readFault s = .next t ∧ (∃ reply, t = { s with frame := .taken 1 .done reply true } ∧
        exec .peekFault s = .next (s.taken 1 .done reply) ∧
        exec .faultRecordRemoval t = .next { s with faultLog := rest, frame := .taken 1 .done reply false } ∧
        exec .faultRecordRemoval { t with frame := .taken 1 .done reply false } =
          .next { t with frame := .taken 1 .done reply false }) ∧
        exec .selectRelease t = .next { s with frame := .waiting }) ∧
    (s.faultLog = [] → exec .readFault s = .next (s.taken 1 .empty (List.replicate 18 0))) ∧
    exec .faultRecordRemoval s = .next s

/-- SET POOL (R2): refused STATE while an area is not FREE or holds an entry, RANGE for a size that is no multiple of 4 or above 128 or
for sizes that sum to more than 384; else all twelve sizes are replaced and nothing else. SET GLOBAL (R127): refused RANGE for a timeout
not 1 to 4095 or an unlisted arbitration; else its four settings are written and nothing else. -/
def Obligations.PoolAndGlobalsWritten : Prop :=
  ∀ (s : State) (sizes : Vector Byte 12) (timeout mask : BitVec 16) (arb ovf : Byte), s.takesInRunning →
    let allFree := ∀ a, (s.area a).state = .free ∧ (s.area a).queue = []
    let fits := (∀ a : AreaId, (sizes[a]).toNat % 4 = 0 ∧ (sizes[a]).toNat ≤ 128) ∧
      (allAreas.map fun a => (sizes[a]).toNat).sum ≤ 384
    (¬ allFree → exec (.setPool sizes) s = .next (s.taken 13 .wrongState [])) ∧
    (allFree → ¬ fits → exec (.setPool sizes) s = .next (s.taken 13 .range [])) ∧
    (allFree → fits → exec (.setPool sizes) s =
      .next (({ s with areas := Vector.ofFn fun a => { s.area a with size := (sizes[a]).toNat } } : State).taken 13 .done [])) ∧
    (timeout.toNat < 1 ∨ 4095 < timeout.toNat ∨ 1 < arb.toNat →
      exec (.setGlobal timeout arb ovf mask) s = .next (s.taken 7 .range [])) ∧
    (1 ≤ timeout.toNat → timeout.toNat ≤ 4095 → arb.toNat ≤ 1 →
      exec (.setGlobal timeout arb ovf mask) s =
        .next (({ s with
          timeout := timeout.toNat, arbitration := if arb = 0 then .roundRobin else .fixed, overflowEscalates := !(ovf == 0)
          alertMask := mask.setWidth 11 } : State).taken 7 .done []))

/-- SET AREA (R126): refused RANGE for an area not 0 to 11, a policy above 2, an escalate above 1, a retry limit above 3 or a high-water
mark above 128; else its six settings are written, in any area state, and the arbiter acts on the head they may have made eligible
(R59, R71). -/
def Obligations.AreaSettingsWritten : Prop :=
  ∀ (s : State) (area policy escalate retry linger highWater merge : Byte), s.takesInRunning →
    (12 ≤ area.toNat ∨ 2 < policy.toNat ∨ 1 < escalate.toNat ∨ 3 < retry.toNat ∨ 128 < highWater.toNat →
      exec (.setArea area policy escalate retry linger highWater merge) s = .next (s.taken 8 .range [])) ∧
    (∀ a : AreaId, area.toNat = a.val → policy.toNat ≤ 2 → escalate.toNat ≤ 1 → retry.toNat ≤ 3 → highWater.toNat ≤ 128 →
      exec (.setArea area policy escalate retry linger highWater merge) s =
        .next ((s.setArea a { s.area a with
          policy := if policy = 0 then .carryOn else if policy = 1 then .halt else .discard
          escalate := if escalate = 0 then .never else .resetRequest
          retry := retry.toNat, linger := linger.toNat, highWater := highWater.toNat, merge := !(merge == 0) }).arbitrate.taken 8 .done
          []))

/-- JOIN (R14), its four checks in order: RANGE for an area or master out of range, STATE for an area not FREE, RANGE for a size of 0,
CONFLICT for a master with a joined or detaching area; else area and master are joined, and nothing else changes. -/
def Obligations.JoinDecided : Prop :=
  ∀ (s : State) (area master : Byte), s.takesInRunning →
    (12 ≤ area.toNat ∨ 16 ≤ master.toNat → exec (.join area master) s = .next (s.taken 3 .range [])) ∧
    (∀ (a : AreaId) (m : MasterId), area.toNat = a.val → master.toNat = m.val →
      exec (.join area master) s =
        .next (if (s.area a).state ≠ .free then s.taken 3 .wrongState []
          else if (s.area a).size = 0 then s.taken 3 .range []
          else if (s.master m).joinedArea ≠ none ∨ (s.master m).detachingArea ≠ none then s.taken 3 .conflict []
          else ((s.setArea a { s.area a with state := .joined, master := some m }).setMaster m
            { s.master m with joinedArea := some a }).taken 3 .done []))

/-- UNJOIN of a JOINED area with no long operation pending is answered ACCEPTED (R15): the area becomes DETACHING with DETACH pending, its
master loses its join and gains it as its detaching area, a waiting write becomes a through-write (R29), and an empty area completes
its detach (R17) before the change ends. It is refused RANGE for an area not 0 to 11 and BUSY while an operation is pending. -/
def Obligations.UnjoinBeginsDetach : Prop :=
  ∀ (s : State) (area : Byte), s.takesInRunning →
    (12 ≤ area.toNat → exec (.unjoin area) s = .next (s.taken 2 .range [])) ∧
    (∀ a : AreaId, area.toNat = a.val → (s.area a).state = .joined →
      ((s.area a).pendingOp ≠ none → exec (.unjoin area) s = .next (s.taken 2 .busy [])) ∧
      (∀ m, (s.area a).master = some m → (s.area a).pendingOp = none →
        let left := (s.setArea a { s.area a with state := .detaching, pendingOp := some .detach }).setMaster m
          { s.master m with joinedArea := none, detachingArea := some a }
        ((∀ w, s.context m ≠ .postingWait w) →
          exec (.unjoin area) s = .next (((left.endDetach a).conclude s.responses.length).taken 2 .accepted [])) ∧
        (∀ w, s.context m = .postingWait w →
          exec (.unjoin area) s =
            .next ((((left.takeThrough m w.line w.mask w.data).endDetach a).conclude s.responses.length).taken 2 .accepted []))))

/-- R16: UNJOIN on an area that is FREE, HALTED or DETACHING is refused STATE and changes nothing (but the frame). -/
def Obligations.UnjoinRefusedState : Prop :=
  ∀ (s : State) (area : Byte) (a : AreaId), s.takesInRunning → area.toNat = a.val →
    (s.area a).state = .free ∨ (s.area a).state = .halted ∨ (s.area a).state = .detaching →
    exec (.unjoin area) s = .next (s.taken 2 .wrongState [])

/-- RESUME (R111): refused RANGE for an area not 0 to 11, STATE unless HALTED, BUSY while a PURGE is pending; else the area is JOINED, with
its entries and settings, and the arbiter acts on its head. -/
def Obligations.ResumeDecided : Prop :=
  ∀ (s : State) (area : Byte), s.takesInRunning →
    (12 ≤ area.toNat → exec (.resume area) s = .next (s.taken 2 .range [])) ∧
    (∀ a : AreaId, area.toNat = a.val →
      ((s.area a).state ≠ .halted → exec (.resume area) s = .next (s.taken 2 .wrongState [])) ∧
      ((s.area a).state = .halted → ∀ mark, (s.area a).pendingOp = some (.purge mark) →
        exec (.resume area) s = .next (s.taken 2 .busy [])) ∧
      ((s.area a).state = .halted → (∀ mark, (s.area a).pendingOp ≠ some (.purge mark)) →
        exec (.resume area) s = .next ((s.setArea a { s.area a with state := .joined }).arbitrate.taken 2 .done [])))

/-- PURGE (R112) and DRAIN (R129): refused RANGE, then STATE (PURGE in FREE or DETACHING, DRAIN in FREE or HALTED), then BUSY while a long
operation is pending. An accepted PURGE takes its mark and drops the non-strict HELD and REISSUE entries; an accepted DRAIN takes its
mark and drops nothing; with nothing to wait for each ends at once (R114, R130). -/
def Obligations.PurgeAndDrainTaken : Prop :=
  ∀ (s : State) (area : Byte), s.takesInRunning →
    (12 ≤ area.toNat → exec (.purge area) s = .next (s.taken 2 .range []) ∧ exec (.drain area) s = .next (s.taken 2 .range [])) ∧
    (∀ a : AreaId, area.toNat = a.val →
      ((s.area a).state = .free ∨ (s.area a).state = .detaching → exec (.purge area) s = .next (s.taken 2 .wrongState [])) ∧
      ((s.area a).state = .free ∨ (s.area a).state = .halted → exec (.drain area) s = .next (s.taken 2 .wrongState [])) ∧
      ((s.area a).state = .joined ∨ (s.area a).state = .halted → (s.area a).pendingOp ≠ none →
        exec (.purge area) s = .next (s.taken 2 .busy [])) ∧
      ((s.area a).state = .joined ∨ (s.area a).state = .detaching → (s.area a).pendingOp ≠ none →
        exec (.drain area) s = .next (s.taken 2 .busy [])) ∧
      ((s.area a).state = .joined ∨ (s.area a).state = .halted → (s.area a).pendingOp = none →
        let marked := s.setArea a { s.area a with pendingOp := some (.purge s.nextPlace) }
        let dropped := marked.dropEntries a .purged fun e => !e.strict && !e.isIssued && decide (e.place < s.nextPlace)
        exec (.purge area) s = .next (((dropped.settleArea a).conclude s.responses.length).taken 2 .accepted [])) ∧
      ((s.area a).state = .joined ∨ (s.area a).state = .detaching → (s.area a).pendingOp = none →
        (∃ e ∈ (s.area a).queue, e.place < s.nextPlace) →
        exec (.drain area) s =
          .next ((s.setArea a { s.area a with pendingOp := some (.drain s.nextPlace) }).arbitrate.taken 2 .accepted [])) ∧
      ((s.area a).state = .joined → (s.area a).pendingOp = none → (∀ e ∈ (s.area a).queue, s.nextPlace ≤ e.place) →
        exec (.drain area) s =
          .next (({ s.setArea a { s.area a with pendingOp := none, lastOutcome := .complete } with
            events := s.events ||| 0x020#11 } : State).arbitrate.taken 2 .accepted [])))

/-- A drop (R110, R112): with nothing to drop nothing changes; else the entries named leave the queue, one summary record of their number is
made with the oldest one's line, and the master is charged that number. -/
def Obligations.DropMakesSummary : Prop :=
  ∀ (s : State) (a : AreaId) (m : MasterId) (cause : FaultCause) (drop : Entry → Bool), (s.area a).master = some m →
    ((∀ e ∈ (s.area a).queue, drop e = false) → s.dropEntries a cause drop = s) ∧
    (∀ e es, (s.area a).queue.filter drop = e :: es →
      let n := es.length + 1
      let r := s.master m
      let record : FaultRecord :=
        { number := s.recordCounter, master := m, area := some a, line := e.line, mask := none, cause := cause, attempts := 0
          entries := n, disposition := .pending, escalated := false }
      s.dropEntries a cause drop =
        ((s.setQueue a ((s.area a).queue.filter fun x => !drop x)).makeRecord record).setMaster m
          { r with
            pendingCount := min 255 (r.pendingCount + n)
            firstFault := if r.firstFault = none then some { line := e.line, cause := cause } else r.firstFault })

/-- R100: CLEAR MASTER refuses a master not 0 to 15 RANGE; else it sets the count to 0, removes the first fault and clears the
through-seen flag, in every state of the master, and changes nothing else (but the frame). In SHUTDOWN mode it is answered BUSY. -/
def Obligations.ClearMasterClears : Prop :=
  ∀ (s : State) (master : Byte), s.takesCommand →
    (s.mode = .running → 16 ≤ master.toNat → exec (.clearMaster master) s = .next (s.taken 2 .range [])) ∧
    (∀ m : MasterId, s.mode = .running → master.toNat = m.val →
      exec (.clearMaster master) s =
        .next ((s.setMaster m { s.master m with pendingCount := 0, firstFault := none, throughSeen := false }).taken 2 .done [])) ∧
    (s.mode = .shutdown → exec (.clearMaster master) s = .next (s.taken 2 .busy []))

/-- ACK EVENTS clears the flags named, ignores positions above the eleven, and replies with the Event Set before the clearing, in every
mode (R133); ALERT is a set and enabled flag (R132). CLEAR RESET RECORD sets the cause to NONE and the other fields to 0 or no (R135).
RECOVER TAGS frees every STALE tag, leaves BUSY and FREE ones, and the arbiter acts (R88). -/
def Obligations.FlagsRecordAndTagsCleared : Prop :=
  ∀ (s : State) (named : BitVec 16), s.takesCommand →
    exec (.ackEvents named) s =
      .next (({ s with events := s.events &&& ~~~(named.setWidth 11) } : State).taken 3 .done
        [BitVec.ofNat 8 (s.events.toNat / 256), BitVec.ofNat 8 s.events.toNat]) ∧
    (s.alert = true ↔ ∃ e : Event, s.eventSet e = true ∧ s.alertMask.getLsbD e.bit = true) ∧
    (s.mode = .running →
      exec .clearResetRecord s =
        .next (({ s with resetRecord :=
          { cause := .nothing, heldLost := 0, issuedUncertain := 0, unreadFaults := 0, overflow := 0, requested := false } } : State).taken 1
          .done [])) ∧
    (s.mode = .running →
      ∃ u : State, exec .recoverTags s = .next (u.arbitrate.taken 1 .done []) ∧ u = { s with tags := u.tags } ∧
        ∀ t, u.tag t = if (s.tag t).isStale then .free else s.tag t)

/-- SOFT RESET in RUNNING mode is answered ACCEPTED (R137): the areas are taken in rising order, a JOINED one becoming DETACHING as under
UNJOIN, a HALTED one being purged (R139), and the change ends with the test of R141. With every area FREE and no BUSY tag it ends at
once. -/
def Obligations.SoftResetTaken : Prop :=
  ∀ s : State, s.takesInRunning →
    exec .softReset s =
      .next (((allAreas.foldl State.shutArea { s with mode := .shutdown }).conclude s.responses.length).taken 1 .accepted []) ∧
    ((∀ a, (s.area a).state = .free) → (∀ t, (s.tag t).isBusy = false) →
      ∃ t, exec .softReset s = .next t ∧ t.mode = .running ∧ t.eventSet .shutdownDone = true ∧ t.resetRecord.cause = .soft) ∧
    ((∃ t, (s.tag t).isBusy = true) → ∃ t, exec .softReset s = .next t ∧ t.mode = .shutdown)

/-- One area under SOFT RESET (R137 to R139): a FREE or DETACHING one stays as it is (but for the model's mark that it takes part, log 16),
and so does a HALTED one under a PURGE; a HALTED one without one is purged as by PURGE. A JOINED one becomes DETACHING as under UNJOIN:
its master loses its join and gains the area as its detaching area, a write that waits for a slot becomes a through-write (R29), offered
to the arbiter before the next area is taken (the model's choice, log 22), and an empty area completes its detach; a DRAIN or PURGE
pending on it stays its operation (R138). Of another area's record only the issue of its entries may change anything. -/
def Obligations.SoftResetTakesArea : Prop :=
  ∀ (s : State) (a : AreaId),
    let marked := s.setArea a { s.area a with inShutdown := true }
    ((s.area a).state = .free → s.shutArea a = s) ∧
    ((s.area a).state = .detaching → s.shutArea a = marked) ∧
    (∀ mark, (s.area a).state = .halted → (s.area a).pendingOp = some (.purge mark) → s.shutArea a = marked) ∧
    ((s.area a).state = .halted → (∀ mark, (s.area a).pendingOp ≠ some (.purge mark)) →
      let purging := s.setArea a { s.area a with inShutdown := true, pendingOp := some (.purge s.nextPlace) }
      s.shutArea a =
        (purging.dropEntries a .purged fun e => !e.strict && !e.isIssued && decide (e.place < s.nextPlace)).settleArea a) ∧
    (∀ m, (s.area a).state = .joined → (s.area a).master = some m →
      let left := (s.setArea a { s.area a with
          inShutdown := true, state := .detaching, pendingOp := some ((s.area a).pendingOp.getD .detach) }).setMaster m
        { s.master m with joinedArea := none, detachingArea := some a }
      ∃ converted : State, ((∀ w, s.context m ≠ .postingWait w) → converted = left) ∧
        (∀ w, s.context m = .postingWait w → converted = left.takeThrough m w.line w.mask w.data) ∧
        ((s.area a).queue ≠ [] → s.shutArea a = converted) ∧
        ((s.area a).queue = [] → (s.area a).pendingOp = none → s.shutArea a =
          { (converted.setArea a { s.area a with
                inShutdown := true, state := .free, master := none, pendingOp := none, lastOutcome := .complete }).setMaster m
              { converted.master m with detachingArea := none } with
            events := converted.events ||| 0x008#11 })) ∧
    (∀ b, b ≠ a → (s.shutArea a).area b = { s.area b with queue := ((s.shutArea a).area b).queue } ∧
      ((s.shutArea a).area b).queue.map Entry.lasting = (s.area b).queue.map Entry.lasting)

/-- Select (R117, R118): its release ends the frame and its assertion opens a new one at the command phase; that it does so in an open frame
too, and that one under RESET# leaves the frame abandoned, to be released first, is the model's choice (log 9). One frame carries one
command: in any other phase a command is not taken (log 8). A byte that names no command is answered UNKNOWN in every mode (R119). In
SHUTDOWN mode the commands that R134 names are answered BUSY without their checks and change nothing. -/
def Obligations.FramesAndShutdown : Prop :=
  ∀ (s : State) (i : Instr) (a b c d e f g : Byte) (sizes : Vector Byte 12) (x y : BitVec 16),
    exec .selectRelease s = .next { s with frame := .waiting } ∧
    (s.resetHeld = false → s.frame ≠ .abandoned → exec .selectAssertion s = .next { s with frame := .command }) ∧
    (s.resetHeld = true ∨ s.frame = .abandoned → exec .selectAssertion s = .next { s with frame := .abandoned }) ∧
    (isManagement i → s.frame ≠ .command → exec i s = .next s) ∧
    (s.takesCommand → exec (.unknownCommand a) s = .next (s.taken 1 .unknown [])) ∧
    (s.takesCommand → s.mode = .shutdown →
      exec (.setPool sizes) s = .next (s.taken 13 .busy []) ∧ exec (.setArea a b c d e f g) s = .next (s.taken 8 .busy []) ∧
      exec (.setGlobal x a b y) s = .next (s.taken 7 .busy []) ∧ exec (.join a b) s = .next (s.taken 3 .busy []) ∧
      exec (.unjoin a) s = .next (s.taken 2 .busy []) ∧ exec (.resume a) s = .next (s.taken 2 .busy []) ∧
      exec (.purge a) s = .next (s.taken 2 .busy []) ∧ exec (.drain a) s = .next (s.taken 2 .busy []) ∧
      exec (.clearMaster a) s = .next (s.taken 2 .busy []) ∧ exec .recoverTags s = .next (s.taken 1 .busy []) ∧
      exec .softReset s = .next (s.taken 1 .busy []) ∧ exec .clearResetRecord s = .next (s.taken 1 .busy []))

/-- The bytes of a command's frame decode to it, with every operand at every value, and leave the bytes behind them (R157, R158). -/
def Obligations.FrameRoundTrip : Prop :=
  ∀ (i : Instr) (bytes tail : List Byte), i.wellFormed = true → encodeFrame i = some bytes →
    decodeFrame (bytes ++ tail) = some (i, tail)

/-! ## Invariants that every step keeps -/

/-- The pool and the settings: sizes legal and within the pool, no area above its size, every setting in its range (R1 to R3, R77). -/
def Obligations.PoolAndSettingsKept : Prop :=
  ∀ s s' : State, step s = .next s' → (s.PoolWithin → s'.PoolWithin) ∧ (s.SettingsLegal → s'.SettingsLegal)

/-- The fault accounts: a master's first fault is present exactly when its count is above 0, and the count is at most 255 (R5, R98); the
Fault Log holds at most 16 records, and the overflow count saturates (R104, R105). -/
def Obligations.FaultAccountsKept : Prop :=
  ∀ s s' : State, step s = .next s' → (s.AccountsExact → s'.AccountsExact) ∧ (s.LogBounded → s'.LogBounded)

/-- The limits of the memory port: at most six tags are BUSY with posted entries or STALE from drains (R56, R74), at most four entries of an
area are ISSUED (R56), and at most one BUSY tag exists per line (R75). -/
def Obligations.PortLimitsKept : Prop :=
  ∀ s s' : State, step s = .next s' →
    (s.DrainTagsBounded → s'.DrainTagsBounded) ∧ (s.QueuesOrdered → s.IssuedBounded → s'.IssuedBounded) ∧
      (s.OneTagPerLine → s'.OneTagPerLine)

/-- Queues stay in posting order, the Hold List within its eight places, and tags and their users agree (R8 to R11, R47, R74 to R76). -/
def Obligations.TagsKept : Prop := ∀ s s' : State, s.TagsAgree → step s = .next s' → s'.TagsAgree

/-- The response queue stays within its bound: answers waiting and requests in progress are at most 17 together (R148). -/
def Obligations.AnswersKept : Prop := ∀ s s' : State, s.AnswersBounded → step s = .next s' → s'.AnswersBounded

/-- Areas and masters agree on their joins (R3 to R5, R14, R15, R17). -/
def Obligations.JoinsKept : Prop := ∀ s s' : State, s.JoinsAgree → step s = .next s' → s'.JoinsAgree

/-- After every step the arbiter has nothing left to do (R65). In a state whose queues stand in order and whose Hold List agrees with the
contexts, no step leaves one of the bridge's own seven tests unmade: no write waits with a slot free (R12, R27), no SYNC, DRAIN or PURGE
with its mark passed (R92, R130, R114), no DETACHING area is empty (R17), no unreleased request has its line clear (R48), and no soft
reset has all areas FREE and no tag BUSY (R141). That the tests are made within the command that meets their condition is the model's
choice (log 2). -/
def Obligations.ArbiterDoneKept : Prop :=
  ∀ s s' : State, s.Settled → step s = .next s' → s'.Settled ∧ (s.QueuesOrdered → s.HoldAgrees → s.TestsMade → s'.TestsMade)

end Slice0
end

