-- ==== Sys2Proof/Laws/State.lean ====
section
/-! SUPPORT. The basic updates of the state, field by field: what each leaves and what it writes. -/

namespace Sys2Proof.Machine

/-! ## Areas -/

@[simp] theorem State.setArea_area (s : State) (a b : AreaId) (r : AreaRec) :
    (s.setArea a r).area b = if b = a then r else s.area b := by
  simp only [State.area, State.setArea, Fin.getElem_fin, Vector.getElem_set, Fin.ext_iff, eq_comm]

@[simp] theorem State.setMaster_master (s : State) (m n : MasterId) (r : MasterRec) :
    (s.setMaster m r).master n = if n = m then r else s.master n := by
  simp only [State.master, State.setMaster, Fin.getElem_fin, Vector.getElem_set, Fin.ext_iff, eq_comm]

@[simp] theorem State.setTag_tag (s : State) (t u : TagId) (v : TagState) :
    (s.setTag t v).tag u = if u = t then v else s.tag u := by
  simp only [State.tag, State.setTag, Fin.getElem_fin, Vector.getElem_set, Fin.ext_iff, eq_comm]

/-! ## setArea -/

@[simp] theorem State.setArea_masters (s : State) (a : AreaId) (r : AreaRec) : (s.setArea a r).masters = s.masters := rfl
@[simp] theorem State.setArea_tags (s : State) (a : AreaId) (r : AreaRec) : (s.setArea a r).tags = s.tags := rfl
@[simp] theorem State.setArea_holdList (s : State) (a : AreaId) (r : AreaRec) : (s.setArea a r).holdList = s.holdList := rfl
@[simp] theorem State.setArea_nextPlace (s : State) (a : AreaId) (r : AreaRec) : (s.setArea a r).nextPlace = s.nextPlace := rfl
@[simp] theorem State.setArea_pointer (s : State) (a : AreaId) (r : AreaRec) : (s.setArea a r).pointer = s.pointer := rfl
@[simp] theorem State.setArea_faultLog (s : State) (a : AreaId) (r : AreaRec) : (s.setArea a r).faultLog = s.faultLog := rfl
@[simp] theorem State.setArea_overflowCount (s : State) (a : AreaId) (r : AreaRec) : (s.setArea a r).overflowCount = s.overflowCount := rfl
@[simp] theorem State.setArea_recordCounter (s : State) (a : AreaId) (r : AreaRec) : (s.setArea a r).recordCounter = s.recordCounter := rfl
@[simp] theorem State.setArea_rstreq (s : State) (a : AreaId) (r : AreaRec) : (s.setArea a r).rstreq = s.rstreq := rfl
@[simp] theorem State.setArea_events (s : State) (a : AreaId) (r : AreaRec) : (s.setArea a r).events = s.events := rfl
@[simp] theorem State.setArea_alertMask (s : State) (a : AreaId) (r : AreaRec) : (s.setArea a r).alertMask = s.alertMask := rfl
@[simp] theorem State.setArea_timeout (s : State) (a : AreaId) (r : AreaRec) : (s.setArea a r).timeout = s.timeout := rfl
@[simp] theorem State.setArea_arbitration (s : State) (a : AreaId) (r : AreaRec) : (s.setArea a r).arbitration = s.arbitration := rfl
@[simp] theorem State.setArea_overflowEscalates (s : State) (a : AreaId) (r : AreaRec) : (s.setArea a r).overflowEscalates = s.overflowEscalates := rfl
@[simp] theorem State.setArea_frame (s : State) (a : AreaId) (r : AreaRec) : (s.setArea a r).frame = s.frame := rfl
@[simp] theorem State.setArea_mode (s : State) (a : AreaId) (r : AreaRec) : (s.setArea a r).mode = s.mode := rfl
@[simp] theorem State.setArea_resetRecord (s : State) (a : AreaId) (r : AreaRec) : (s.setArea a r).resetRecord = s.resetRecord := rfl
@[simp] theorem State.setArea_responses (s : State) (a : AreaId) (r : AreaRec) : (s.setArea a r).responses = s.responses := rfl
@[simp] theorem State.setArea_resetHeld (s : State) (a : AreaId) (r : AreaRec) : (s.setArea a r).resetHeld = s.resetHeld := rfl
@[simp] theorem State.setArea_straps (s : State) (a : AreaId) (r : AreaRec) : (s.setArea a r).straps = s.straps := rfl
@[simp] theorem State.setArea_memoryReady (s : State) (a : AreaId) (r : AreaRec) : (s.setArea a r).memoryReady = s.memoryReady := rfl
@[simp] theorem State.setArea_now (s : State) (a : AreaId) (r : AreaRec) : (s.setArea a r).now = s.now := rfl
@[simp] theorem State.setArea_pending (s : State) (a : AreaId) (r : AreaRec) : (s.setArea a r).pending = s.pending := rfl
@[simp] theorem State.setArea_master (s : State) (a : AreaId) (r : AreaRec) (n : MasterId) : (s.setArea a r).master n = s.master n := rfl
@[simp] theorem State.setArea_tag (s : State) (a : AreaId) (r : AreaRec) (u : TagId) : (s.setArea a r).tag u = s.tag u := rfl
@[simp] theorem State.setArea_context (s : State) (a : AreaId) (r : AreaRec) (n : MasterId) : (s.setArea a r).context n = s.context n := rfl

/-! ## setMaster -/

@[simp] theorem State.setMaster_areas (s : State) (m : MasterId) (r : MasterRec) : (s.setMaster m r).areas = s.areas := rfl
@[simp] theorem State.setMaster_tags (s : State) (m : MasterId) (r : MasterRec) : (s.setMaster m r).tags = s.tags := rfl
@[simp] theorem State.setMaster_holdList (s : State) (m : MasterId) (r : MasterRec) : (s.setMaster m r).holdList = s.holdList := rfl
@[simp] theorem State.setMaster_nextPlace (s : State) (m : MasterId) (r : MasterRec) : (s.setMaster m r).nextPlace = s.nextPlace := rfl
@[simp] theorem State.setMaster_pointer (s : State) (m : MasterId) (r : MasterRec) : (s.setMaster m r).pointer = s.pointer := rfl
@[simp] theorem State.setMaster_faultLog (s : State) (m : MasterId) (r : MasterRec) : (s.setMaster m r).faultLog = s.faultLog := rfl
@[simp] theorem State.setMaster_overflowCount (s : State) (m : MasterId) (r : MasterRec) : (s.setMaster m r).overflowCount = s.overflowCount := rfl
@[simp] theorem State.setMaster_recordCounter (s : State) (m : MasterId) (r : MasterRec) : (s.setMaster m r).recordCounter = s.recordCounter := rfl
@[simp] theorem State.setMaster_rstreq (s : State) (m : MasterId) (r : MasterRec) : (s.setMaster m r).rstreq = s.rstreq := rfl
@[simp] theorem State.setMaster_events (s : State) (m : MasterId) (r : MasterRec) : (s.setMaster m r).events = s.events := rfl
@[simp] theorem State.setMaster_alertMask (s : State) (m : MasterId) (r : MasterRec) : (s.setMaster m r).alertMask = s.alertMask := rfl
@[simp] theorem State.setMaster_timeout (s : State) (m : MasterId) (r : MasterRec) : (s.setMaster m r).timeout = s.timeout := rfl
@[simp] theorem State.setMaster_arbitration (s : State) (m : MasterId) (r : MasterRec) : (s.setMaster m r).arbitration = s.arbitration := rfl
@[simp] theorem State.setMaster_overflowEscalates (s : State) (m : MasterId) (r : MasterRec) : (s.setMaster m r).overflowEscalates = s.overflowEscalates := rfl
@[simp] theorem State.setMaster_frame (s : State) (m : MasterId) (r : MasterRec) : (s.setMaster m r).frame = s.frame := rfl
@[simp] theorem State.setMaster_mode (s : State) (m : MasterId) (r : MasterRec) : (s.setMaster m r).mode = s.mode := rfl
@[simp] theorem State.setMaster_resetRecord (s : State) (m : MasterId) (r : MasterRec) : (s.setMaster m r).resetRecord = s.resetRecord := rfl
@[simp] theorem State.setMaster_responses (s : State) (m : MasterId) (r : MasterRec) : (s.setMaster m r).responses = s.responses := rfl
@[simp] theorem State.setMaster_resetHeld (s : State) (m : MasterId) (r : MasterRec) : (s.setMaster m r).resetHeld = s.resetHeld := rfl
@[simp] theorem State.setMaster_straps (s : State) (m : MasterId) (r : MasterRec) : (s.setMaster m r).straps = s.straps := rfl
@[simp] theorem State.setMaster_memoryReady (s : State) (m : MasterId) (r : MasterRec) : (s.setMaster m r).memoryReady = s.memoryReady := rfl
@[simp] theorem State.setMaster_now (s : State) (m : MasterId) (r : MasterRec) : (s.setMaster m r).now = s.now := rfl
@[simp] theorem State.setMaster_pending (s : State) (m : MasterId) (r : MasterRec) : (s.setMaster m r).pending = s.pending := rfl
@[simp] theorem State.setMaster_area (s : State) (m : MasterId) (r : MasterRec) (b : AreaId) : (s.setMaster m r).area b = s.area b := rfl
@[simp] theorem State.setMaster_tag (s : State) (m : MasterId) (r : MasterRec) (u : TagId) : (s.setMaster m r).tag u = s.tag u := rfl

/-! ## setTag -/

@[simp] theorem State.setTag_areas (s : State) (t : TagId) (v : TagState) : (s.setTag t v).areas = s.areas := rfl
@[simp] theorem State.setTag_masters (s : State) (t : TagId) (v : TagState) : (s.setTag t v).masters = s.masters := rfl
@[simp] theorem State.setTag_holdList (s : State) (t : TagId) (v : TagState) : (s.setTag t v).holdList = s.holdList := rfl
@[simp] theorem State.setTag_nextPlace (s : State) (t : TagId) (v : TagState) : (s.setTag t v).nextPlace = s.nextPlace := rfl
@[simp] theorem State.setTag_pointer (s : State) (t : TagId) (v : TagState) : (s.setTag t v).pointer = s.pointer := rfl
@[simp] theorem State.setTag_faultLog (s : State) (t : TagId) (v : TagState) : (s.setTag t v).faultLog = s.faultLog := rfl
@[simp] theorem State.setTag_overflowCount (s : State) (t : TagId) (v : TagState) : (s.setTag t v).overflowCount = s.overflowCount := rfl
@[simp] theorem State.setTag_recordCounter (s : State) (t : TagId) (v : TagState) : (s.setTag t v).recordCounter = s.recordCounter := rfl
@[simp] theorem State.setTag_rstreq (s : State) (t : TagId) (v : TagState) : (s.setTag t v).rstreq = s.rstreq := rfl
@[simp] theorem State.setTag_events (s : State) (t : TagId) (v : TagState) : (s.setTag t v).events = s.events := rfl
@[simp] theorem State.setTag_alertMask (s : State) (t : TagId) (v : TagState) : (s.setTag t v).alertMask = s.alertMask := rfl
@[simp] theorem State.setTag_timeout (s : State) (t : TagId) (v : TagState) : (s.setTag t v).timeout = s.timeout := rfl
@[simp] theorem State.setTag_arbitration (s : State) (t : TagId) (v : TagState) : (s.setTag t v).arbitration = s.arbitration := rfl
@[simp] theorem State.setTag_overflowEscalates (s : State) (t : TagId) (v : TagState) : (s.setTag t v).overflowEscalates = s.overflowEscalates := rfl
@[simp] theorem State.setTag_frame (s : State) (t : TagId) (v : TagState) : (s.setTag t v).frame = s.frame := rfl
@[simp] theorem State.setTag_mode (s : State) (t : TagId) (v : TagState) : (s.setTag t v).mode = s.mode := rfl
@[simp] theorem State.setTag_resetRecord (s : State) (t : TagId) (v : TagState) : (s.setTag t v).resetRecord = s.resetRecord := rfl
@[simp] theorem State.setTag_responses (s : State) (t : TagId) (v : TagState) : (s.setTag t v).responses = s.responses := rfl
@[simp] theorem State.setTag_resetHeld (s : State) (t : TagId) (v : TagState) : (s.setTag t v).resetHeld = s.resetHeld := rfl
@[simp] theorem State.setTag_straps (s : State) (t : TagId) (v : TagState) : (s.setTag t v).straps = s.straps := rfl
@[simp] theorem State.setTag_memoryReady (s : State) (t : TagId) (v : TagState) : (s.setTag t v).memoryReady = s.memoryReady := rfl
@[simp] theorem State.setTag_now (s : State) (t : TagId) (v : TagState) : (s.setTag t v).now = s.now := rfl
@[simp] theorem State.setTag_pending (s : State) (t : TagId) (v : TagState) : (s.setTag t v).pending = s.pending := rfl
@[simp] theorem State.setTag_area (s : State) (t : TagId) (v : TagState) (b : AreaId) : (s.setTag t v).area b = s.area b := rfl
@[simp] theorem State.setTag_master (s : State) (t : TagId) (v : TagState) (n : MasterId) : (s.setTag t v).master n = s.master n := rfl
@[simp] theorem State.setTag_context (s : State) (t : TagId) (v : TagState) (n : MasterId) : (s.setTag t v).context n = s.context n := rfl

/-! ## setContext -/

@[simp] theorem State.setContext_areas (s : State) (m : MasterId) (c : Context) : (s.setContext m c).areas = s.areas := rfl
@[simp] theorem State.setContext_tags (s : State) (m : MasterId) (c : Context) : (s.setContext m c).tags = s.tags := rfl
@[simp] theorem State.setContext_holdList (s : State) (m : MasterId) (c : Context) : (s.setContext m c).holdList = s.holdList := rfl
@[simp] theorem State.setContext_nextPlace (s : State) (m : MasterId) (c : Context) : (s.setContext m c).nextPlace = s.nextPlace := rfl
@[simp] theorem State.setContext_pointer (s : State) (m : MasterId) (c : Context) : (s.setContext m c).pointer = s.pointer := rfl
@[simp] theorem State.setContext_faultLog (s : State) (m : MasterId) (c : Context) : (s.setContext m c).faultLog = s.faultLog := rfl
@[simp] theorem State.setContext_overflowCount (s : State) (m : MasterId) (c : Context) : (s.setContext m c).overflowCount = s.overflowCount := rfl
@[simp] theorem State.setContext_recordCounter (s : State) (m : MasterId) (c : Context) : (s.setContext m c).recordCounter = s.recordCounter := rfl
@[simp] theorem State.setContext_rstreq (s : State) (m : MasterId) (c : Context) : (s.setContext m c).rstreq = s.rstreq := rfl
@[simp] theorem State.setContext_events (s : State) (m : MasterId) (c : Context) : (s.setContext m c).events = s.events := rfl
@[simp] theorem State.setContext_alertMask (s : State) (m : MasterId) (c : Context) : (s.setContext m c).alertMask = s.alertMask := rfl
@[simp] theorem State.setContext_timeout (s : State) (m : MasterId) (c : Context) : (s.setContext m c).timeout = s.timeout := rfl
@[simp] theorem State.setContext_arbitration (s : State) (m : MasterId) (c : Context) : (s.setContext m c).arbitration = s.arbitration := rfl
@[simp] theorem State.setContext_overflowEscalates (s : State) (m : MasterId) (c : Context) : (s.setContext m c).overflowEscalates = s.overflowEscalates := rfl
@[simp] theorem State.setContext_frame (s : State) (m : MasterId) (c : Context) : (s.setContext m c).frame = s.frame := rfl
@[simp] theorem State.setContext_mode (s : State) (m : MasterId) (c : Context) : (s.setContext m c).mode = s.mode := rfl
@[simp] theorem State.setContext_resetRecord (s : State) (m : MasterId) (c : Context) : (s.setContext m c).resetRecord = s.resetRecord := rfl
@[simp] theorem State.setContext_responses (s : State) (m : MasterId) (c : Context) : (s.setContext m c).responses = s.responses := rfl
@[simp] theorem State.setContext_resetHeld (s : State) (m : MasterId) (c : Context) : (s.setContext m c).resetHeld = s.resetHeld := rfl
@[simp] theorem State.setContext_straps (s : State) (m : MasterId) (c : Context) : (s.setContext m c).straps = s.straps := rfl
@[simp] theorem State.setContext_memoryReady (s : State) (m : MasterId) (c : Context) : (s.setContext m c).memoryReady = s.memoryReady := rfl
@[simp] theorem State.setContext_now (s : State) (m : MasterId) (c : Context) : (s.setContext m c).now = s.now := rfl
@[simp] theorem State.setContext_pending (s : State) (m : MasterId) (c : Context) : (s.setContext m c).pending = s.pending := rfl
@[simp] theorem State.setContext_area (s : State) (m : MasterId) (c : Context) (b : AreaId) : (s.setContext m c).area b = s.area b := rfl
@[simp] theorem State.setContext_tag (s : State) (m : MasterId) (c : Context) (u : TagId) : (s.setContext m c).tag u = s.tag u := rfl

/-! ## setQueue -/

@[simp] theorem State.setQueue_masters (s : State) (a : AreaId) (q : List Entry) : (s.setQueue a q).masters = s.masters := rfl
@[simp] theorem State.setQueue_tags (s : State) (a : AreaId) (q : List Entry) : (s.setQueue a q).tags = s.tags := rfl
@[simp] theorem State.setQueue_holdList (s : State) (a : AreaId) (q : List Entry) : (s.setQueue a q).holdList = s.holdList := rfl
@[simp] theorem State.setQueue_nextPlace (s : State) (a : AreaId) (q : List Entry) : (s.setQueue a q).nextPlace = s.nextPlace := rfl
@[simp] theorem State.setQueue_pointer (s : State) (a : AreaId) (q : List Entry) : (s.setQueue a q).pointer = s.pointer := rfl
@[simp] theorem State.setQueue_faultLog (s : State) (a : AreaId) (q : List Entry) : (s.setQueue a q).faultLog = s.faultLog := rfl
@[simp] theorem State.setQueue_overflowCount (s : State) (a : AreaId) (q : List Entry) : (s.setQueue a q).overflowCount = s.overflowCount := rfl
@[simp] theorem State.setQueue_recordCounter (s : State) (a : AreaId) (q : List Entry) : (s.setQueue a q).recordCounter = s.recordCounter := rfl
@[simp] theorem State.setQueue_rstreq (s : State) (a : AreaId) (q : List Entry) : (s.setQueue a q).rstreq = s.rstreq := rfl
@[simp] theorem State.setQueue_events (s : State) (a : AreaId) (q : List Entry) : (s.setQueue a q).events = s.events := rfl
@[simp] theorem State.setQueue_alertMask (s : State) (a : AreaId) (q : List Entry) : (s.setQueue a q).alertMask = s.alertMask := rfl
@[simp] theorem State.setQueue_timeout (s : State) (a : AreaId) (q : List Entry) : (s.setQueue a q).timeout = s.timeout := rfl
@[simp] theorem State.setQueue_arbitration (s : State) (a : AreaId) (q : List Entry) : (s.setQueue a q).arbitration = s.arbitration := rfl
@[simp] theorem State.setQueue_overflowEscalates (s : State) (a : AreaId) (q : List Entry) : (s.setQueue a q).overflowEscalates = s.overflowEscalates := rfl
@[simp] theorem State.setQueue_frame (s : State) (a : AreaId) (q : List Entry) : (s.setQueue a q).frame = s.frame := rfl
@[simp] theorem State.setQueue_mode (s : State) (a : AreaId) (q : List Entry) : (s.setQueue a q).mode = s.mode := rfl
@[simp] theorem State.setQueue_resetRecord (s : State) (a : AreaId) (q : List Entry) : (s.setQueue a q).resetRecord = s.resetRecord := rfl
@[simp] theorem State.setQueue_responses (s : State) (a : AreaId) (q : List Entry) : (s.setQueue a q).responses = s.responses := rfl
@[simp] theorem State.setQueue_resetHeld (s : State) (a : AreaId) (q : List Entry) : (s.setQueue a q).resetHeld = s.resetHeld := rfl
@[simp] theorem State.setQueue_straps (s : State) (a : AreaId) (q : List Entry) : (s.setQueue a q).straps = s.straps := rfl
@[simp] theorem State.setQueue_memoryReady (s : State) (a : AreaId) (q : List Entry) : (s.setQueue a q).memoryReady = s.memoryReady := rfl
@[simp] theorem State.setQueue_now (s : State) (a : AreaId) (q : List Entry) : (s.setQueue a q).now = s.now := rfl
@[simp] theorem State.setQueue_pending (s : State) (a : AreaId) (q : List Entry) : (s.setQueue a q).pending = s.pending := rfl
@[simp] theorem State.setQueue_master (s : State) (a : AreaId) (q : List Entry) (n : MasterId) : (s.setQueue a q).master n = s.master n := rfl
@[simp] theorem State.setQueue_tag (s : State) (a : AreaId) (q : List Entry) (u : TagId) : (s.setQueue a q).tag u = s.tag u := rfl
@[simp] theorem State.setQueue_context (s : State) (a : AreaId) (q : List Entry) (n : MasterId) : (s.setQueue a q).context n = s.context n := rfl

/-! ## removeEntry -/

@[simp] theorem State.removeEntry_masters (s : State) (a : AreaId) (place : Nat) : (s.removeEntry a place).masters = s.masters := rfl
@[simp] theorem State.removeEntry_tags (s : State) (a : AreaId) (place : Nat) : (s.removeEntry a place).tags = s.tags := rfl
@[simp] theorem State.removeEntry_holdList (s : State) (a : AreaId) (place : Nat) : (s.removeEntry a place).holdList = s.holdList := rfl
@[simp] theorem State.removeEntry_nextPlace (s : State) (a : AreaId) (place : Nat) : (s.removeEntry a place).nextPlace = s.nextPlace := rfl
@[simp] theorem State.removeEntry_pointer (s : State) (a : AreaId) (place : Nat) : (s.removeEntry a place).pointer = s.pointer := rfl
@[simp] theorem State.removeEntry_faultLog (s : State) (a : AreaId) (place : Nat) : (s.removeEntry a place).faultLog = s.faultLog := rfl
@[simp] theorem State.removeEntry_overflowCount (s : State) (a : AreaId) (place : Nat) : (s.removeEntry a place).overflowCount = s.overflowCount := rfl
@[simp] theorem State.removeEntry_recordCounter (s : State) (a : AreaId) (place : Nat) : (s.removeEntry a place).recordCounter = s.recordCounter := rfl
@[simp] theorem State.removeEntry_rstreq (s : State) (a : AreaId) (place : Nat) : (s.removeEntry a place).rstreq = s.rstreq := rfl
@[simp] theorem State.removeEntry_events (s : State) (a : AreaId) (place : Nat) : (s.removeEntry a place).events = s.events := rfl
@[simp] theorem State.removeEntry_alertMask (s : State) (a : AreaId) (place : Nat) : (s.removeEntry a place).alertMask = s.alertMask := rfl
@[simp] theorem State.removeEntry_timeout (s : State) (a : AreaId) (place : Nat) : (s.removeEntry a place).timeout = s.timeout := rfl
@[simp] theorem State.removeEntry_arbitration (s : State) (a : AreaId) (place : Nat) : (s.removeEntry a place).arbitration = s.arbitration := rfl
@[simp] theorem State.removeEntry_overflowEscalates (s : State) (a : AreaId) (place : Nat) : (s.removeEntry a place).overflowEscalates = s.overflowEscalates := rfl
@[simp] theorem State.removeEntry_frame (s : State) (a : AreaId) (place : Nat) : (s.removeEntry a place).frame = s.frame := rfl
@[simp] theorem State.removeEntry_mode (s : State) (a : AreaId) (place : Nat) : (s.removeEntry a place).mode = s.mode := rfl
@[simp] theorem State.removeEntry_resetRecord (s : State) (a : AreaId) (place : Nat) : (s.removeEntry a place).resetRecord = s.resetRecord := rfl
@[simp] theorem State.removeEntry_responses (s : State) (a : AreaId) (place : Nat) : (s.removeEntry a place).responses = s.responses := rfl
@[simp] theorem State.removeEntry_resetHeld (s : State) (a : AreaId) (place : Nat) : (s.removeEntry a place).resetHeld = s.resetHeld := rfl
@[simp] theorem State.removeEntry_straps (s : State) (a : AreaId) (place : Nat) : (s.removeEntry a place).straps = s.straps := rfl
@[simp] theorem State.removeEntry_memoryReady (s : State) (a : AreaId) (place : Nat) : (s.removeEntry a place).memoryReady = s.memoryReady := rfl
@[simp] theorem State.removeEntry_now (s : State) (a : AreaId) (place : Nat) : (s.removeEntry a place).now = s.now := rfl
@[simp] theorem State.removeEntry_pending (s : State) (a : AreaId) (place : Nat) : (s.removeEntry a place).pending = s.pending := rfl
@[simp] theorem State.removeEntry_master (s : State) (a : AreaId) (place : Nat) (n : MasterId) : (s.removeEntry a place).master n = s.master n := rfl
@[simp] theorem State.removeEntry_tag (s : State) (a : AreaId) (place : Nat) (u : TagId) : (s.removeEntry a place).tag u = s.tag u := rfl
@[simp] theorem State.removeEntry_context (s : State) (a : AreaId) (place : Nat) (n : MasterId) : (s.removeEntry a place).context n = s.context n := rfl

/-! ## updateEntry -/

@[simp] theorem State.updateEntry_masters (s : State) (a : AreaId) (place : Nat) (f : Entry → Entry) : (s.updateEntry a place f).masters = s.masters := rfl
@[simp] theorem State.updateEntry_tags (s : State) (a : AreaId) (place : Nat) (f : Entry → Entry) : (s.updateEntry a place f).tags = s.tags := rfl
@[simp] theorem State.updateEntry_holdList (s : State) (a : AreaId) (place : Nat) (f : Entry → Entry) : (s.updateEntry a place f).holdList = s.holdList := rfl
@[simp] theorem State.updateEntry_nextPlace (s : State) (a : AreaId) (place : Nat) (f : Entry → Entry) : (s.updateEntry a place f).nextPlace = s.nextPlace := rfl
@[simp] theorem State.updateEntry_pointer (s : State) (a : AreaId) (place : Nat) (f : Entry → Entry) : (s.updateEntry a place f).pointer = s.pointer := rfl
@[simp] theorem State.updateEntry_faultLog (s : State) (a : AreaId) (place : Nat) (f : Entry → Entry) : (s.updateEntry a place f).faultLog = s.faultLog := rfl
@[simp] theorem State.updateEntry_overflowCount (s : State) (a : AreaId) (place : Nat) (f : Entry → Entry) : (s.updateEntry a place f).overflowCount = s.overflowCount := rfl
@[simp] theorem State.updateEntry_recordCounter (s : State) (a : AreaId) (place : Nat) (f : Entry → Entry) : (s.updateEntry a place f).recordCounter = s.recordCounter := rfl
@[simp] theorem State.updateEntry_rstreq (s : State) (a : AreaId) (place : Nat) (f : Entry → Entry) : (s.updateEntry a place f).rstreq = s.rstreq := rfl
@[simp] theorem State.updateEntry_events (s : State) (a : AreaId) (place : Nat) (f : Entry → Entry) : (s.updateEntry a place f).events = s.events := rfl
@[simp] theorem State.updateEntry_alertMask (s : State) (a : AreaId) (place : Nat) (f : Entry → Entry) : (s.updateEntry a place f).alertMask = s.alertMask := rfl
@[simp] theorem State.updateEntry_timeout (s : State) (a : AreaId) (place : Nat) (f : Entry → Entry) : (s.updateEntry a place f).timeout = s.timeout := rfl
@[simp] theorem State.updateEntry_arbitration (s : State) (a : AreaId) (place : Nat) (f : Entry → Entry) : (s.updateEntry a place f).arbitration = s.arbitration := rfl
@[simp] theorem State.updateEntry_overflowEscalates (s : State) (a : AreaId) (place : Nat) (f : Entry → Entry) : (s.updateEntry a place f).overflowEscalates = s.overflowEscalates := rfl
@[simp] theorem State.updateEntry_frame (s : State) (a : AreaId) (place : Nat) (f : Entry → Entry) : (s.updateEntry a place f).frame = s.frame := rfl
@[simp] theorem State.updateEntry_mode (s : State) (a : AreaId) (place : Nat) (f : Entry → Entry) : (s.updateEntry a place f).mode = s.mode := rfl
@[simp] theorem State.updateEntry_resetRecord (s : State) (a : AreaId) (place : Nat) (f : Entry → Entry) : (s.updateEntry a place f).resetRecord = s.resetRecord := rfl
@[simp] theorem State.updateEntry_responses (s : State) (a : AreaId) (place : Nat) (f : Entry → Entry) : (s.updateEntry a place f).responses = s.responses := rfl
@[simp] theorem State.updateEntry_resetHeld (s : State) (a : AreaId) (place : Nat) (f : Entry → Entry) : (s.updateEntry a place f).resetHeld = s.resetHeld := rfl
@[simp] theorem State.updateEntry_straps (s : State) (a : AreaId) (place : Nat) (f : Entry → Entry) : (s.updateEntry a place f).straps = s.straps := rfl
@[simp] theorem State.updateEntry_memoryReady (s : State) (a : AreaId) (place : Nat) (f : Entry → Entry) : (s.updateEntry a place f).memoryReady = s.memoryReady := rfl
@[simp] theorem State.updateEntry_now (s : State) (a : AreaId) (place : Nat) (f : Entry → Entry) : (s.updateEntry a place f).now = s.now := rfl
@[simp] theorem State.updateEntry_pending (s : State) (a : AreaId) (place : Nat) (f : Entry → Entry) : (s.updateEntry a place f).pending = s.pending := rfl
@[simp] theorem State.updateEntry_master (s : State) (a : AreaId) (place : Nat) (f : Entry → Entry) (n : MasterId) : (s.updateEntry a place f).master n = s.master n := rfl
@[simp] theorem State.updateEntry_tag (s : State) (a : AreaId) (place : Nat) (f : Entry → Entry) (u : TagId) : (s.updateEntry a place f).tag u = s.tag u := rfl
@[simp] theorem State.updateEntry_context (s : State) (a : AreaId) (place : Nat) (f : Entry → Entry) (n : MasterId) : (s.updateEntry a place f).context n = s.context n := rfl

/-! ## send -/

@[simp] theorem State.send_areas (s : State) (m : MasterId) (body : AnswerBody) : (s.send m body).areas = s.areas := rfl
@[simp] theorem State.send_masters (s : State) (m : MasterId) (body : AnswerBody) : (s.send m body).masters = s.masters := rfl
@[simp] theorem State.send_tags (s : State) (m : MasterId) (body : AnswerBody) : (s.send m body).tags = s.tags := rfl
@[simp] theorem State.send_holdList (s : State) (m : MasterId) (body : AnswerBody) : (s.send m body).holdList = s.holdList := rfl
@[simp] theorem State.send_nextPlace (s : State) (m : MasterId) (body : AnswerBody) : (s.send m body).nextPlace = s.nextPlace := rfl
@[simp] theorem State.send_pointer (s : State) (m : MasterId) (body : AnswerBody) : (s.send m body).pointer = s.pointer := rfl
@[simp] theorem State.send_faultLog (s : State) (m : MasterId) (body : AnswerBody) : (s.send m body).faultLog = s.faultLog := rfl
@[simp] theorem State.send_overflowCount (s : State) (m : MasterId) (body : AnswerBody) : (s.send m body).overflowCount = s.overflowCount := rfl
@[simp] theorem State.send_recordCounter (s : State) (m : MasterId) (body : AnswerBody) : (s.send m body).recordCounter = s.recordCounter := rfl
@[simp] theorem State.send_rstreq (s : State) (m : MasterId) (body : AnswerBody) : (s.send m body).rstreq = s.rstreq := rfl
@[simp] theorem State.send_events (s : State) (m : MasterId) (body : AnswerBody) : (s.send m body).events = s.events := rfl
@[simp] theorem State.send_alertMask (s : State) (m : MasterId) (body : AnswerBody) : (s.send m body).alertMask = s.alertMask := rfl
@[simp] theorem State.send_timeout (s : State) (m : MasterId) (body : AnswerBody) : (s.send m body).timeout = s.timeout := rfl
@[simp] theorem State.send_arbitration (s : State) (m : MasterId) (body : AnswerBody) : (s.send m body).arbitration = s.arbitration := rfl
@[simp] theorem State.send_overflowEscalates (s : State) (m : MasterId) (body : AnswerBody) : (s.send m body).overflowEscalates = s.overflowEscalates := rfl
@[simp] theorem State.send_frame (s : State) (m : MasterId) (body : AnswerBody) : (s.send m body).frame = s.frame := rfl
@[simp] theorem State.send_mode (s : State) (m : MasterId) (body : AnswerBody) : (s.send m body).mode = s.mode := rfl
@[simp] theorem State.send_resetRecord (s : State) (m : MasterId) (body : AnswerBody) : (s.send m body).resetRecord = s.resetRecord := rfl
@[simp] theorem State.send_resetHeld (s : State) (m : MasterId) (body : AnswerBody) : (s.send m body).resetHeld = s.resetHeld := rfl
@[simp] theorem State.send_straps (s : State) (m : MasterId) (body : AnswerBody) : (s.send m body).straps = s.straps := rfl
@[simp] theorem State.send_memoryReady (s : State) (m : MasterId) (body : AnswerBody) : (s.send m body).memoryReady = s.memoryReady := rfl
@[simp] theorem State.send_now (s : State) (m : MasterId) (body : AnswerBody) : (s.send m body).now = s.now := rfl
@[simp] theorem State.send_pending (s : State) (m : MasterId) (body : AnswerBody) : (s.send m body).pending = s.pending := rfl
@[simp] theorem State.send_area (s : State) (m : MasterId) (body : AnswerBody) (b : AreaId) : (s.send m body).area b = s.area b := rfl
@[simp] theorem State.send_master (s : State) (m : MasterId) (body : AnswerBody) (n : MasterId) : (s.send m body).master n = s.master n := rfl
@[simp] theorem State.send_tag (s : State) (m : MasterId) (body : AnswerBody) (u : TagId) : (s.send m body).tag u = s.tag u := rfl
@[simp] theorem State.send_context (s : State) (m : MasterId) (body : AnswerBody) (n : MasterId) : (s.send m body).context n = s.context n := rfl

/-! ## answer -/

@[simp] theorem State.answer_areas (s : State) (m : MasterId) (body : AnswerBody) : (s.answer m body).areas = s.areas := rfl
@[simp] theorem State.answer_tags (s : State) (m : MasterId) (body : AnswerBody) : (s.answer m body).tags = s.tags := rfl
@[simp] theorem State.answer_holdList (s : State) (m : MasterId) (body : AnswerBody) : (s.answer m body).holdList = s.holdList := rfl
@[simp] theorem State.answer_nextPlace (s : State) (m : MasterId) (body : AnswerBody) : (s.answer m body).nextPlace = s.nextPlace := rfl
@[simp] theorem State.answer_pointer (s : State) (m : MasterId) (body : AnswerBody) : (s.answer m body).pointer = s.pointer := rfl
@[simp] theorem State.answer_faultLog (s : State) (m : MasterId) (body : AnswerBody) : (s.answer m body).faultLog = s.faultLog := rfl
@[simp] theorem State.answer_overflowCount (s : State) (m : MasterId) (body : AnswerBody) : (s.answer m body).overflowCount = s.overflowCount := rfl
@[simp] theorem State.answer_recordCounter (s : State) (m : MasterId) (body : AnswerBody) : (s.answer m body).recordCounter = s.recordCounter := rfl
@[simp] theorem State.answer_rstreq (s : State) (m : MasterId) (body : AnswerBody) : (s.answer m body).rstreq = s.rstreq := rfl
@[simp] theorem State.answer_events (s : State) (m : MasterId) (body : AnswerBody) : (s.answer m body).events = s.events := rfl
@[simp] theorem State.answer_alertMask (s : State) (m : MasterId) (body : AnswerBody) : (s.answer m body).alertMask = s.alertMask := rfl
@[simp] theorem State.answer_timeout (s : State) (m : MasterId) (body : AnswerBody) : (s.answer m body).timeout = s.timeout := rfl
@[simp] theorem State.answer_arbitration (s : State) (m : MasterId) (body : AnswerBody) : (s.answer m body).arbitration = s.arbitration := rfl
@[simp] theorem State.answer_overflowEscalates (s : State) (m : MasterId) (body : AnswerBody) : (s.answer m body).overflowEscalates = s.overflowEscalates := rfl
@[simp] theorem State.answer_frame (s : State) (m : MasterId) (body : AnswerBody) : (s.answer m body).frame = s.frame := rfl
@[simp] theorem State.answer_mode (s : State) (m : MasterId) (body : AnswerBody) : (s.answer m body).mode = s.mode := rfl
@[simp] theorem State.answer_resetRecord (s : State) (m : MasterId) (body : AnswerBody) : (s.answer m body).resetRecord = s.resetRecord := rfl
@[simp] theorem State.answer_resetHeld (s : State) (m : MasterId) (body : AnswerBody) : (s.answer m body).resetHeld = s.resetHeld := rfl
@[simp] theorem State.answer_straps (s : State) (m : MasterId) (body : AnswerBody) : (s.answer m body).straps = s.straps := rfl
@[simp] theorem State.answer_memoryReady (s : State) (m : MasterId) (body : AnswerBody) : (s.answer m body).memoryReady = s.memoryReady := rfl
@[simp] theorem State.answer_now (s : State) (m : MasterId) (body : AnswerBody) : (s.answer m body).now = s.now := rfl
@[simp] theorem State.answer_pending (s : State) (m : MasterId) (body : AnswerBody) : (s.answer m body).pending = s.pending := rfl
@[simp] theorem State.answer_area (s : State) (m : MasterId) (body : AnswerBody) (b : AreaId) : (s.answer m body).area b = s.area b := rfl
@[simp] theorem State.answer_tag (s : State) (m : MasterId) (body : AnswerBody) (u : TagId) : (s.answer m body).tag u = s.tag u := rfl

/-! ## joinHold -/

@[simp] theorem State.joinHold_areas (s : State) (m : MasterId) (released : Bool) : (s.joinHold m released).areas = s.areas := rfl
@[simp] theorem State.joinHold_masters (s : State) (m : MasterId) (released : Bool) : (s.joinHold m released).masters = s.masters := rfl
@[simp] theorem State.joinHold_tags (s : State) (m : MasterId) (released : Bool) : (s.joinHold m released).tags = s.tags := rfl
@[simp] theorem State.joinHold_nextPlace (s : State) (m : MasterId) (released : Bool) : (s.joinHold m released).nextPlace = s.nextPlace := rfl
@[simp] theorem State.joinHold_pointer (s : State) (m : MasterId) (released : Bool) : (s.joinHold m released).pointer = s.pointer := rfl
@[simp] theorem State.joinHold_faultLog (s : State) (m : MasterId) (released : Bool) : (s.joinHold m released).faultLog = s.faultLog := rfl
@[simp] theorem State.joinHold_overflowCount (s : State) (m : MasterId) (released : Bool) : (s.joinHold m released).overflowCount = s.overflowCount := rfl
@[simp] theorem State.joinHold_recordCounter (s : State) (m : MasterId) (released : Bool) : (s.joinHold m released).recordCounter = s.recordCounter := rfl
@[simp] theorem State.joinHold_rstreq (s : State) (m : MasterId) (released : Bool) : (s.joinHold m released).rstreq = s.rstreq := rfl
@[simp] theorem State.joinHold_events (s : State) (m : MasterId) (released : Bool) : (s.joinHold m released).events = s.events := rfl
@[simp] theorem State.joinHold_alertMask (s : State) (m : MasterId) (released : Bool) : (s.joinHold m released).alertMask = s.alertMask := rfl
@[simp] theorem State.joinHold_timeout (s : State) (m : MasterId) (released : Bool) : (s.joinHold m released).timeout = s.timeout := rfl
@[simp] theorem State.joinHold_arbitration (s : State) (m : MasterId) (released : Bool) : (s.joinHold m released).arbitration = s.arbitration := rfl
@[simp] theorem State.joinHold_overflowEscalates (s : State) (m : MasterId) (released : Bool) : (s.joinHold m released).overflowEscalates = s.overflowEscalates := rfl
@[simp] theorem State.joinHold_frame (s : State) (m : MasterId) (released : Bool) : (s.joinHold m released).frame = s.frame := rfl
@[simp] theorem State.joinHold_mode (s : State) (m : MasterId) (released : Bool) : (s.joinHold m released).mode = s.mode := rfl
@[simp] theorem State.joinHold_resetRecord (s : State) (m : MasterId) (released : Bool) : (s.joinHold m released).resetRecord = s.resetRecord := rfl
@[simp] theorem State.joinHold_responses (s : State) (m : MasterId) (released : Bool) : (s.joinHold m released).responses = s.responses := rfl
@[simp] theorem State.joinHold_resetHeld (s : State) (m : MasterId) (released : Bool) : (s.joinHold m released).resetHeld = s.resetHeld := rfl
@[simp] theorem State.joinHold_straps (s : State) (m : MasterId) (released : Bool) : (s.joinHold m released).straps = s.straps := rfl
@[simp] theorem State.joinHold_memoryReady (s : State) (m : MasterId) (released : Bool) : (s.joinHold m released).memoryReady = s.memoryReady := rfl
@[simp] theorem State.joinHold_now (s : State) (m : MasterId) (released : Bool) : (s.joinHold m released).now = s.now := rfl
@[simp] theorem State.joinHold_pending (s : State) (m : MasterId) (released : Bool) : (s.joinHold m released).pending = s.pending := rfl
@[simp] theorem State.joinHold_area (s : State) (m : MasterId) (released : Bool) (b : AreaId) : (s.joinHold m released).area b = s.area b := rfl
@[simp] theorem State.joinHold_master (s : State) (m : MasterId) (released : Bool) (n : MasterId) : (s.joinHold m released).master n = s.master n := rfl
@[simp] theorem State.joinHold_tag (s : State) (m : MasterId) (released : Bool) (u : TagId) : (s.joinHold m released).tag u = s.tag u := rfl
@[simp] theorem State.joinHold_context (s : State) (m : MasterId) (released : Bool) (n : MasterId) : (s.joinHold m released).context n = s.context n := rfl

/-! ## leaveHold -/

@[simp] theorem State.leaveHold_areas (s : State) (m : MasterId) : (s.leaveHold m).areas = s.areas := rfl
@[simp] theorem State.leaveHold_masters (s : State) (m : MasterId) : (s.leaveHold m).masters = s.masters := rfl
@[simp] theorem State.leaveHold_tags (s : State) (m : MasterId) : (s.leaveHold m).tags = s.tags := rfl
@[simp] theorem State.leaveHold_nextPlace (s : State) (m : MasterId) : (s.leaveHold m).nextPlace = s.nextPlace := rfl
@[simp] theorem State.leaveHold_pointer (s : State) (m : MasterId) : (s.leaveHold m).pointer = s.pointer := rfl
@[simp] theorem State.leaveHold_faultLog (s : State) (m : MasterId) : (s.leaveHold m).faultLog = s.faultLog := rfl
@[simp] theorem State.leaveHold_overflowCount (s : State) (m : MasterId) : (s.leaveHold m).overflowCount = s.overflowCount := rfl
@[simp] theorem State.leaveHold_recordCounter (s : State) (m : MasterId) : (s.leaveHold m).recordCounter = s.recordCounter := rfl
@[simp] theorem State.leaveHold_rstreq (s : State) (m : MasterId) : (s.leaveHold m).rstreq = s.rstreq := rfl
@[simp] theorem State.leaveHold_events (s : State) (m : MasterId) : (s.leaveHold m).events = s.events := rfl
@[simp] theorem State.leaveHold_alertMask (s : State) (m : MasterId) : (s.leaveHold m).alertMask = s.alertMask := rfl
@[simp] theorem State.leaveHold_timeout (s : State) (m : MasterId) : (s.leaveHold m).timeout = s.timeout := rfl
@[simp] theorem State.leaveHold_arbitration (s : State) (m : MasterId) : (s.leaveHold m).arbitration = s.arbitration := rfl
@[simp] theorem State.leaveHold_overflowEscalates (s : State) (m : MasterId) : (s.leaveHold m).overflowEscalates = s.overflowEscalates := rfl
@[simp] theorem State.leaveHold_frame (s : State) (m : MasterId) : (s.leaveHold m).frame = s.frame := rfl
@[simp] theorem State.leaveHold_mode (s : State) (m : MasterId) : (s.leaveHold m).mode = s.mode := rfl
@[simp] theorem State.leaveHold_resetRecord (s : State) (m : MasterId) : (s.leaveHold m).resetRecord = s.resetRecord := rfl
@[simp] theorem State.leaveHold_responses (s : State) (m : MasterId) : (s.leaveHold m).responses = s.responses := rfl
@[simp] theorem State.leaveHold_resetHeld (s : State) (m : MasterId) : (s.leaveHold m).resetHeld = s.resetHeld := rfl
@[simp] theorem State.leaveHold_straps (s : State) (m : MasterId) : (s.leaveHold m).straps = s.straps := rfl
@[simp] theorem State.leaveHold_memoryReady (s : State) (m : MasterId) : (s.leaveHold m).memoryReady = s.memoryReady := rfl
@[simp] theorem State.leaveHold_now (s : State) (m : MasterId) : (s.leaveHold m).now = s.now := rfl
@[simp] theorem State.leaveHold_pending (s : State) (m : MasterId) : (s.leaveHold m).pending = s.pending := rfl
@[simp] theorem State.leaveHold_area (s : State) (m : MasterId) (b : AreaId) : (s.leaveHold m).area b = s.area b := rfl
@[simp] theorem State.leaveHold_master (s : State) (m : MasterId) (n : MasterId) : (s.leaveHold m).master n = s.master n := rfl
@[simp] theorem State.leaveHold_tag (s : State) (m : MasterId) (u : TagId) : (s.leaveHold m).tag u = s.tag u := rfl
@[simp] theorem State.leaveHold_context (s : State) (m : MasterId) (n : MasterId) : (s.leaveHold m).context n = s.context n := rfl

/-! ## raise -/

@[simp] theorem State.raise_areas (s : State) (e : Event) : (s.raise e).areas = s.areas := rfl
@[simp] theorem State.raise_masters (s : State) (e : Event) : (s.raise e).masters = s.masters := rfl
@[simp] theorem State.raise_tags (s : State) (e : Event) : (s.raise e).tags = s.tags := rfl
@[simp] theorem State.raise_holdList (s : State) (e : Event) : (s.raise e).holdList = s.holdList := rfl
@[simp] theorem State.raise_nextPlace (s : State) (e : Event) : (s.raise e).nextPlace = s.nextPlace := rfl
@[simp] theorem State.raise_pointer (s : State) (e : Event) : (s.raise e).pointer = s.pointer := rfl
@[simp] theorem State.raise_faultLog (s : State) (e : Event) : (s.raise e).faultLog = s.faultLog := rfl
@[simp] theorem State.raise_overflowCount (s : State) (e : Event) : (s.raise e).overflowCount = s.overflowCount := rfl
@[simp] theorem State.raise_recordCounter (s : State) (e : Event) : (s.raise e).recordCounter = s.recordCounter := rfl
@[simp] theorem State.raise_rstreq (s : State) (e : Event) : (s.raise e).rstreq = s.rstreq := rfl
@[simp] theorem State.raise_alertMask (s : State) (e : Event) : (s.raise e).alertMask = s.alertMask := rfl
@[simp] theorem State.raise_timeout (s : State) (e : Event) : (s.raise e).timeout = s.timeout := rfl
@[simp] theorem State.raise_arbitration (s : State) (e : Event) : (s.raise e).arbitration = s.arbitration := rfl
@[simp] theorem State.raise_overflowEscalates (s : State) (e : Event) : (s.raise e).overflowEscalates = s.overflowEscalates := rfl
@[simp] theorem State.raise_frame (s : State) (e : Event) : (s.raise e).frame = s.frame := rfl
@[simp] theorem State.raise_mode (s : State) (e : Event) : (s.raise e).mode = s.mode := rfl
@[simp] theorem State.raise_resetRecord (s : State) (e : Event) : (s.raise e).resetRecord = s.resetRecord := rfl
@[simp] theorem State.raise_responses (s : State) (e : Event) : (s.raise e).responses = s.responses := rfl
@[simp] theorem State.raise_resetHeld (s : State) (e : Event) : (s.raise e).resetHeld = s.resetHeld := rfl
@[simp] theorem State.raise_straps (s : State) (e : Event) : (s.raise e).straps = s.straps := rfl
@[simp] theorem State.raise_memoryReady (s : State) (e : Event) : (s.raise e).memoryReady = s.memoryReady := rfl
@[simp] theorem State.raise_now (s : State) (e : Event) : (s.raise e).now = s.now := rfl
@[simp] theorem State.raise_pending (s : State) (e : Event) : (s.raise e).pending = s.pending := rfl
@[simp] theorem State.raise_area (s : State) (e : Event) (b : AreaId) : (s.raise e).area b = s.area b := rfl
@[simp] theorem State.raise_master (s : State) (e : Event) (n : MasterId) : (s.raise e).master n = s.master n := rfl
@[simp] theorem State.raise_tag (s : State) (e : Event) (u : TagId) : (s.raise e).tag u = s.tag u := rfl
@[simp] theorem State.raise_context (s : State) (e : Event) (n : MasterId) : (s.raise e).context n = s.context n := rfl

/-! ## movePointer -/

@[simp] theorem State.movePointer_areas (s : State) (p : AreaId) : (s.movePointer p).areas = s.areas := rfl
@[simp] theorem State.movePointer_masters (s : State) (p : AreaId) : (s.movePointer p).masters = s.masters := rfl
@[simp] theorem State.movePointer_tags (s : State) (p : AreaId) : (s.movePointer p).tags = s.tags := rfl
@[simp] theorem State.movePointer_holdList (s : State) (p : AreaId) : (s.movePointer p).holdList = s.holdList := rfl
@[simp] theorem State.movePointer_nextPlace (s : State) (p : AreaId) : (s.movePointer p).nextPlace = s.nextPlace := rfl
@[simp] theorem State.movePointer_faultLog (s : State) (p : AreaId) : (s.movePointer p).faultLog = s.faultLog := rfl
@[simp] theorem State.movePointer_overflowCount (s : State) (p : AreaId) : (s.movePointer p).overflowCount = s.overflowCount := rfl
@[simp] theorem State.movePointer_recordCounter (s : State) (p : AreaId) : (s.movePointer p).recordCounter = s.recordCounter := rfl
@[simp] theorem State.movePointer_rstreq (s : State) (p : AreaId) : (s.movePointer p).rstreq = s.rstreq := rfl
@[simp] theorem State.movePointer_events (s : State) (p : AreaId) : (s.movePointer p).events = s.events := rfl
@[simp] theorem State.movePointer_alertMask (s : State) (p : AreaId) : (s.movePointer p).alertMask = s.alertMask := rfl
@[simp] theorem State.movePointer_timeout (s : State) (p : AreaId) : (s.movePointer p).timeout = s.timeout := rfl
@[simp] theorem State.movePointer_arbitration (s : State) (p : AreaId) : (s.movePointer p).arbitration = s.arbitration := rfl
@[simp] theorem State.movePointer_overflowEscalates (s : State) (p : AreaId) : (s.movePointer p).overflowEscalates = s.overflowEscalates := rfl
@[simp] theorem State.movePointer_frame (s : State) (p : AreaId) : (s.movePointer p).frame = s.frame := rfl
@[simp] theorem State.movePointer_mode (s : State) (p : AreaId) : (s.movePointer p).mode = s.mode := rfl
@[simp] theorem State.movePointer_resetRecord (s : State) (p : AreaId) : (s.movePointer p).resetRecord = s.resetRecord := rfl
@[simp] theorem State.movePointer_responses (s : State) (p : AreaId) : (s.movePointer p).responses = s.responses := rfl
@[simp] theorem State.movePointer_resetHeld (s : State) (p : AreaId) : (s.movePointer p).resetHeld = s.resetHeld := rfl
@[simp] theorem State.movePointer_straps (s : State) (p : AreaId) : (s.movePointer p).straps = s.straps := rfl
@[simp] theorem State.movePointer_memoryReady (s : State) (p : AreaId) : (s.movePointer p).memoryReady = s.memoryReady := rfl
@[simp] theorem State.movePointer_now (s : State) (p : AreaId) : (s.movePointer p).now = s.now := rfl
@[simp] theorem State.movePointer_pending (s : State) (p : AreaId) : (s.movePointer p).pending = s.pending := rfl
@[simp] theorem State.movePointer_area (s : State) (p : AreaId) (b : AreaId) : (s.movePointer p).area b = s.area b := rfl
@[simp] theorem State.movePointer_master (s : State) (p : AreaId) (n : MasterId) : (s.movePointer p).master n = s.master n := rfl
@[simp] theorem State.movePointer_tag (s : State) (p : AreaId) (u : TagId) : (s.movePointer p).tag u = s.tag u := rfl
@[simp] theorem State.movePointer_context (s : State) (p : AreaId) (n : MasterId) : (s.movePointer p).context n = s.context n := rfl

/-! ## occupy -/

@[simp] theorem State.occupy_areas (s : State) (t : TagId) (user : TagUser) (request : MemRequest) : (s.occupy t user request).areas = s.areas := rfl
@[simp] theorem State.occupy_masters (s : State) (t : TagId) (user : TagUser) (request : MemRequest) : (s.occupy t user request).masters = s.masters := rfl
@[simp] theorem State.occupy_holdList (s : State) (t : TagId) (user : TagUser) (request : MemRequest) : (s.occupy t user request).holdList = s.holdList := rfl
@[simp] theorem State.occupy_nextPlace (s : State) (t : TagId) (user : TagUser) (request : MemRequest) : (s.occupy t user request).nextPlace = s.nextPlace := rfl
@[simp] theorem State.occupy_pointer (s : State) (t : TagId) (user : TagUser) (request : MemRequest) : (s.occupy t user request).pointer = s.pointer := rfl
@[simp] theorem State.occupy_faultLog (s : State) (t : TagId) (user : TagUser) (request : MemRequest) : (s.occupy t user request).faultLog = s.faultLog := rfl
@[simp] theorem State.occupy_overflowCount (s : State) (t : TagId) (user : TagUser) (request : MemRequest) : (s.occupy t user request).overflowCount = s.overflowCount := rfl
@[simp] theorem State.occupy_recordCounter (s : State) (t : TagId) (user : TagUser) (request : MemRequest) : (s.occupy t user request).recordCounter = s.recordCounter := rfl
@[simp] theorem State.occupy_rstreq (s : State) (t : TagId) (user : TagUser) (request : MemRequest) : (s.occupy t user request).rstreq = s.rstreq := rfl
@[simp] theorem State.occupy_events (s : State) (t : TagId) (user : TagUser) (request : MemRequest) : (s.occupy t user request).events = s.events := rfl
@[simp] theorem State.occupy_alertMask (s : State) (t : TagId) (user : TagUser) (request : MemRequest) : (s.occupy t user request).alertMask = s.alertMask := rfl
@[simp] theorem State.occupy_timeout (s : State) (t : TagId) (user : TagUser) (request : MemRequest) : (s.occupy t user request).timeout = s.timeout := rfl
@[simp] theorem State.occupy_arbitration (s : State) (t : TagId) (user : TagUser) (request : MemRequest) : (s.occupy t user request).arbitration = s.arbitration := rfl
@[simp] theorem State.occupy_overflowEscalates (s : State) (t : TagId) (user : TagUser) (request : MemRequest) : (s.occupy t user request).overflowEscalates = s.overflowEscalates := rfl
@[simp] theorem State.occupy_frame (s : State) (t : TagId) (user : TagUser) (request : MemRequest) : (s.occupy t user request).frame = s.frame := rfl
@[simp] theorem State.occupy_mode (s : State) (t : TagId) (user : TagUser) (request : MemRequest) : (s.occupy t user request).mode = s.mode := rfl
@[simp] theorem State.occupy_resetRecord (s : State) (t : TagId) (user : TagUser) (request : MemRequest) : (s.occupy t user request).resetRecord = s.resetRecord := rfl
@[simp] theorem State.occupy_responses (s : State) (t : TagId) (user : TagUser) (request : MemRequest) : (s.occupy t user request).responses = s.responses := rfl
@[simp] theorem State.occupy_resetHeld (s : State) (t : TagId) (user : TagUser) (request : MemRequest) : (s.occupy t user request).resetHeld = s.resetHeld := rfl
@[simp] theorem State.occupy_straps (s : State) (t : TagId) (user : TagUser) (request : MemRequest) : (s.occupy t user request).straps = s.straps := rfl
@[simp] theorem State.occupy_memoryReady (s : State) (t : TagId) (user : TagUser) (request : MemRequest) : (s.occupy t user request).memoryReady = afterAcceptance s.memoryReady := rfl
@[simp] theorem State.occupy_now (s : State) (t : TagId) (user : TagUser) (request : MemRequest) : (s.occupy t user request).now = s.now := rfl
@[simp] theorem State.occupy_pending (s : State) (t : TagId) (user : TagUser) (request : MemRequest) : (s.occupy t user request).pending = s.pending := rfl
@[simp] theorem State.occupy_area (s : State) (t : TagId) (user : TagUser) (request : MemRequest) (b : AreaId) : (s.occupy t user request).area b = s.area b := rfl
@[simp] theorem State.occupy_master (s : State) (t : TagId) (user : TagUser) (request : MemRequest) (n : MasterId) : (s.occupy t user request).master n = s.master n := rfl
@[simp] theorem State.occupy_context (s : State) (t : TagId) (user : TagUser) (request : MemRequest) (n : MasterId) : (s.occupy t user request).context n = s.context n := rfl

/-! ## What the updates write -/

@[simp] theorem State.setContext_context (s : State) (m n : MasterId) (c : Context) :
    (s.setContext m c).context n = if n = m then c else s.context n := by
  simp only [State.context, State.setContext, State.setMaster_master]; split <;> rfl

@[simp] theorem State.setContext_master (s : State) (m n : MasterId) (c : Context) :
    (s.setContext m c).master n = if n = m then { s.master m with context := c } else s.master n := by
  simp [State.setContext]

@[simp] theorem State.setMaster_context (s : State) (m n : MasterId) (r : MasterRec) :
    (s.setMaster m r).context n = if n = m then r.context else s.context n := by
  simp only [State.context, State.setMaster_master]; split <;> rfl

@[simp] theorem State.answer_context (s : State) (m n : MasterId) (body : AnswerBody) :
    (s.answer m body).context n = if n = m then .idle else s.context n := by
  simp [State.answer]

@[simp] theorem State.answer_master (s : State) (m n : MasterId) (body : AnswerBody) :
    (s.answer m body).master n = if n = m then { s.master m with context := .idle } else s.master n := by
  simp [State.answer]

@[simp] theorem State.send_responses (s : State) (m : MasterId) (body : AnswerBody) :
    (s.send m body).responses = s.responses ++ [{ master := m, body := body }] := rfl

@[simp] theorem State.answer_responses (s : State) (m : MasterId) (body : AnswerBody) :
    (s.answer m body).responses = s.responses ++ [{ master := m, body := body }] := rfl

@[simp] theorem State.setQueue_area (s : State) (a b : AreaId) (q : List Entry) :
    (s.setQueue a q).area b = if b = a then { s.area a with queue := q } else s.area b := by
  simp [State.setQueue]

@[simp] theorem State.removeEntry_area (s : State) (a b : AreaId) (place : Nat) :
    (s.removeEntry a place).area b =
      if b = a then { s.area a with queue := (s.area a).queue.filter fun e => e.place != place } else s.area b := by
  simp [State.removeEntry]

@[simp] theorem State.updateEntry_area (s : State) (a b : AreaId) (place : Nat) (f : Entry → Entry) :
    (s.updateEntry a place f).area b =
      if b = a then { s.area a with queue := (s.area a).queue.map fun e => if e.place == place then f e else e }
      else s.area b := by
  simp [State.updateEntry]

@[simp] theorem State.joinHold_holdList (s : State) (m : MasterId) (released : Bool) :
    (s.joinHold m released).holdList = s.holdList ++ [{ master := m, released := released }] := rfl

@[simp] theorem State.leaveHold_holdList (s : State) (m : MasterId) :
    (s.leaveHold m).holdList = s.holdList.filter fun p => p.master != m := rfl

@[simp] theorem State.raise_events (s : State) (e : Event) : (s.raise e).events = s.events ||| e.flag := rfl

@[simp] theorem State.occupy_tag (s : State) (t u : TagId) (user : TagUser) (request : MemRequest) :
    (s.occupy t user request).tag u =
      if u = t then .busy { user := user, request := request, started := s.now, timeout := s.timeout } else s.tag u := by
  exact State.setTag_tag s t u _

@[simp] theorem State.postEntry_nextPlace (s : State) (a : AreaId) (w : WriteReq) :
    (s.postEntry a w).nextPlace = s.nextPlace + 1 := rfl

@[simp] theorem State.postEntry_area (s : State) (a b : AreaId) (w : WriteReq) :
    (s.postEntry a w).area b =
      if b = a then { s.area a with queue := (s.area a).queue ++ [s.freshEntry w] } else s.area b :=
  State.setQueue_area s a b _

@[simp] theorem State.mergeTail_area (s : State) (a b : AreaId) (w : WriteReq) (e : Entry) :
    (s.mergeTail a w e).area b =
      if b = a then { s.area a with queue := (s.area a).queue.dropLast ++ [e.merged w] } else s.area b :=
  State.setQueue_area s a b _

@[simp] theorem State.freeStale_tag (s : State) (t : TagId) : (s.freeStale).tag t = (s.tag t).recovered := by
  simp [State.tag, State.freeStale]

@[simp] theorem State.charge_master (s : State) (m n : MasterId) (k : Nat) (line : Line) (cause : FaultCause) :
    (s.charge m k line cause).master n =
      if n = m then
        { s.master m with
          pendingCount := min Config.pendingMax ((s.master m).pendingCount + k)
          firstFault := (s.master m).firstFault.or (some { line := line, cause := cause }) }
      else s.master n := by
  simp [State.charge]

@[simp] theorem State.charge_context (s : State) (m n : MasterId) (k : Nat) (line : Line) (cause : FaultCause) :
    (s.charge m k line cause).context n = s.context n := by
  simp only [State.context, State.charge_master]; split <;> simp_all

@[simp] theorem State.clearAccount_master (s : State) (m n : MasterId) :
    (s.clearAccount m).master n =
      if n = m then { s.master m with pendingCount := 0, firstFault := none } else s.master n := by
  simp [State.clearAccount]

@[simp] theorem State.clearAccount_context (s : State) (m n : MasterId) : (s.clearAccount m).context n = s.context n := by
  simp only [State.context, State.clearAccount_master]; split <;> simp_all

/-! ## The state right after reset -/

@[simp] theorem State.reset_area (a : AreaId) : State.reset.area a = AreaRec.reset := by
  simp [State.area, State.reset]

@[simp] theorem State.reset_master (m : MasterId) : State.reset.master m = MasterRec.reset := by
  simp [State.master, State.reset]

@[simp] theorem State.reset_tag (t : TagId) : State.reset.tag t = .free := by
  simp [State.tag, State.reset]

end Sys2Proof.Machine
end

