-- ==== Sys2Proof/Laws/Frames.lean ====
section
/-! SUPPORT. What each shared operation of the bridge leaves as it is: one lemma per operation, each conjunct a simp rule. -/

namespace Sys2Proof.Machine

@[simp] theorem State.orderAnswers_frame (s : State) (k : Nat) :
    (s.orderAnswers k).areas = s.areas ∧ (s.orderAnswers k).masters = s.masters ∧ (s.orderAnswers k).tags = s.tags ∧
    (s.orderAnswers k).holdList = s.holdList ∧ (s.orderAnswers k).nextPlace = s.nextPlace ∧
    (s.orderAnswers k).pointer = s.pointer ∧ (s.orderAnswers k).faultLog = s.faultLog ∧
    (s.orderAnswers k).overflowCount = s.overflowCount ∧ (s.orderAnswers k).recordCounter = s.recordCounter ∧
    (s.orderAnswers k).rstreq = s.rstreq ∧ (s.orderAnswers k).events = s.events ∧ (s.orderAnswers k).alertMask = s.alertMask ∧
    (s.orderAnswers k).timeout = s.timeout ∧ (s.orderAnswers k).arbitration = s.arbitration ∧
    (s.orderAnswers k).overflowEscalates = s.overflowEscalates ∧ (s.orderAnswers k).frame = s.frame ∧
    (s.orderAnswers k).mode = s.mode ∧ (s.orderAnswers k).resetRecord = s.resetRecord ∧
    (s.orderAnswers k).resetHeld = s.resetHeld ∧ (s.orderAnswers k).straps = s.straps ∧
    (s.orderAnswers k).memoryReady = s.memoryReady ∧ (s.orderAnswers k).now = s.now ∧ (s.orderAnswers k).pending = s.pending ∧
    (∀ x : AreaId, (s.orderAnswers k).area x = s.area x) ∧ (∀ x : MasterId, (s.orderAnswers k).master x = s.master x) ∧
    (∀ x : TagId, (s.orderAnswers k).tag x = s.tag x) ∧ (∀ x : MasterId, (s.orderAnswers k).context x = s.context x) := by
  repeat (first | exact rfl | exact fun _ => rfl | refine ⟨?_, ?_⟩)

@[simp] theorem State.releaseHolds_frame (s : State) :
    (s.releaseHolds).areas = s.areas ∧ (s.releaseHolds).masters = s.masters ∧ (s.releaseHolds).tags = s.tags ∧
    (s.releaseHolds).nextPlace = s.nextPlace ∧ (s.releaseHolds).pointer = s.pointer ∧ (s.releaseHolds).faultLog = s.faultLog ∧
    (s.releaseHolds).overflowCount = s.overflowCount ∧ (s.releaseHolds).recordCounter = s.recordCounter ∧
    (s.releaseHolds).rstreq = s.rstreq ∧ (s.releaseHolds).events = s.events ∧ (s.releaseHolds).alertMask = s.alertMask ∧
    (s.releaseHolds).timeout = s.timeout ∧ (s.releaseHolds).arbitration = s.arbitration ∧
    (s.releaseHolds).overflowEscalates = s.overflowEscalates ∧ (s.releaseHolds).frame = s.frame ∧
    (s.releaseHolds).mode = s.mode ∧ (s.releaseHolds).resetRecord = s.resetRecord ∧ (s.releaseHolds).responses = s.responses ∧
    (s.releaseHolds).resetHeld = s.resetHeld ∧ (s.releaseHolds).straps = s.straps ∧
    (s.releaseHolds).memoryReady = s.memoryReady ∧ (s.releaseHolds).now = s.now ∧ (s.releaseHolds).pending = s.pending ∧
    (∀ x : AreaId, (s.releaseHolds).area x = s.area x) ∧ (∀ x : MasterId, (s.releaseHolds).master x = s.master x) ∧
    (∀ x : TagId, (s.releaseHolds).tag x = s.tag x) ∧ (∀ x : MasterId, (s.releaseHolds).context x = s.context x) := by
  repeat (first | exact rfl | exact fun _ => rfl | refine ⟨?_, ?_⟩)

@[simp] theorem State.releaseOne_frame (s : State) (m : MasterId) :
    (s.releaseOne m).areas = s.areas ∧ (s.releaseOne m).masters = s.masters ∧ (s.releaseOne m).tags = s.tags ∧
    (s.releaseOne m).nextPlace = s.nextPlace ∧ (s.releaseOne m).pointer = s.pointer ∧ (s.releaseOne m).faultLog = s.faultLog ∧
    (s.releaseOne m).overflowCount = s.overflowCount ∧ (s.releaseOne m).recordCounter = s.recordCounter ∧
    (s.releaseOne m).rstreq = s.rstreq ∧ (s.releaseOne m).events = s.events ∧ (s.releaseOne m).alertMask = s.alertMask ∧
    (s.releaseOne m).timeout = s.timeout ∧ (s.releaseOne m).arbitration = s.arbitration ∧
    (s.releaseOne m).overflowEscalates = s.overflowEscalates ∧ (s.releaseOne m).frame = s.frame ∧
    (s.releaseOne m).mode = s.mode ∧ (s.releaseOne m).resetRecord = s.resetRecord ∧ (s.releaseOne m).responses = s.responses ∧
    (s.releaseOne m).resetHeld = s.resetHeld ∧ (s.releaseOne m).straps = s.straps ∧
    (s.releaseOne m).memoryReady = s.memoryReady ∧ (s.releaseOne m).now = s.now ∧ (s.releaseOne m).pending = s.pending ∧
    (∀ x : AreaId, (s.releaseOne m).area x = s.area x) ∧ (∀ x : MasterId, (s.releaseOne m).master x = s.master x) ∧
    (∀ x : TagId, (s.releaseOne m).tag x = s.tag x) ∧ (∀ x : MasterId, (s.releaseOne m).context x = s.context x) := by
  repeat (first | exact rfl | exact fun _ => rfl | refine ⟨?_, ?_⟩)

@[simp] theorem State.acknowledge_frame (s : State) (w : BitVec 16) :
    (s.acknowledge w).areas = s.areas ∧ (s.acknowledge w).masters = s.masters ∧ (s.acknowledge w).tags = s.tags ∧
    (s.acknowledge w).holdList = s.holdList ∧ (s.acknowledge w).nextPlace = s.nextPlace ∧
    (s.acknowledge w).pointer = s.pointer ∧ (s.acknowledge w).faultLog = s.faultLog ∧
    (s.acknowledge w).overflowCount = s.overflowCount ∧ (s.acknowledge w).recordCounter = s.recordCounter ∧
    (s.acknowledge w).rstreq = s.rstreq ∧ (s.acknowledge w).alertMask = s.alertMask ∧ (s.acknowledge w).timeout = s.timeout ∧
    (s.acknowledge w).arbitration = s.arbitration ∧ (s.acknowledge w).overflowEscalates = s.overflowEscalates ∧
    (s.acknowledge w).frame = s.frame ∧ (s.acknowledge w).mode = s.mode ∧ (s.acknowledge w).resetRecord = s.resetRecord ∧
    (s.acknowledge w).responses = s.responses ∧ (s.acknowledge w).resetHeld = s.resetHeld ∧
    (s.acknowledge w).straps = s.straps ∧ (s.acknowledge w).memoryReady = s.memoryReady ∧ (s.acknowledge w).now = s.now ∧
    (s.acknowledge w).pending = s.pending ∧ (∀ x : AreaId, (s.acknowledge w).area x = s.area x) ∧
    (∀ x : MasterId, (s.acknowledge w).master x = s.master x) ∧ (∀ x : TagId, (s.acknowledge w).tag x = s.tag x) ∧
    (∀ x : MasterId, (s.acknowledge w).context x = s.context x) := by
  repeat (first | exact rfl | exact fun _ => rfl | refine ⟨?_, ?_⟩)

@[simp] theorem State.mergeTail_frame (s : State) (a : AreaId) (w : WriteReq) (e : Entry) :
    (s.mergeTail a w e).masters = s.masters ∧ (s.mergeTail a w e).tags = s.tags ∧ (s.mergeTail a w e).holdList = s.holdList ∧
    (s.mergeTail a w e).nextPlace = s.nextPlace ∧ (s.mergeTail a w e).pointer = s.pointer ∧
    (s.mergeTail a w e).faultLog = s.faultLog ∧ (s.mergeTail a w e).overflowCount = s.overflowCount ∧
    (s.mergeTail a w e).recordCounter = s.recordCounter ∧ (s.mergeTail a w e).rstreq = s.rstreq ∧
    (s.mergeTail a w e).events = s.events ∧ (s.mergeTail a w e).alertMask = s.alertMask ∧
    (s.mergeTail a w e).timeout = s.timeout ∧ (s.mergeTail a w e).arbitration = s.arbitration ∧
    (s.mergeTail a w e).overflowEscalates = s.overflowEscalates ∧ (s.mergeTail a w e).frame = s.frame ∧
    (s.mergeTail a w e).mode = s.mode ∧ (s.mergeTail a w e).resetRecord = s.resetRecord ∧
    (s.mergeTail a w e).responses = s.responses ∧ (s.mergeTail a w e).resetHeld = s.resetHeld ∧
    (s.mergeTail a w e).straps = s.straps ∧ (s.mergeTail a w e).memoryReady = s.memoryReady ∧ (s.mergeTail a w e).now = s.now ∧
    (s.mergeTail a w e).pending = s.pending ∧ (∀ x : MasterId, (s.mergeTail a w e).master x = s.master x) ∧
    (∀ x : TagId, (s.mergeTail a w e).tag x = s.tag x) ∧ (∀ x : MasterId, (s.mergeTail a w e).context x = s.context x) := by
  repeat (first | exact rfl | exact fun _ => rfl | refine ⟨?_, ?_⟩)

@[simp] theorem State.postEntry_frame (s : State) (a : AreaId) (w : WriteReq) :
    (s.postEntry a w).masters = s.masters ∧ (s.postEntry a w).tags = s.tags ∧ (s.postEntry a w).holdList = s.holdList ∧
    (s.postEntry a w).pointer = s.pointer ∧ (s.postEntry a w).faultLog = s.faultLog ∧
    (s.postEntry a w).overflowCount = s.overflowCount ∧ (s.postEntry a w).recordCounter = s.recordCounter ∧
    (s.postEntry a w).rstreq = s.rstreq ∧ (s.postEntry a w).events = s.events ∧ (s.postEntry a w).alertMask = s.alertMask ∧
    (s.postEntry a w).timeout = s.timeout ∧ (s.postEntry a w).arbitration = s.arbitration ∧
    (s.postEntry a w).overflowEscalates = s.overflowEscalates ∧ (s.postEntry a w).frame = s.frame ∧
    (s.postEntry a w).mode = s.mode ∧ (s.postEntry a w).resetRecord = s.resetRecord ∧
    (s.postEntry a w).responses = s.responses ∧ (s.postEntry a w).resetHeld = s.resetHeld ∧
    (s.postEntry a w).straps = s.straps ∧ (s.postEntry a w).memoryReady = s.memoryReady ∧ (s.postEntry a w).now = s.now ∧
    (s.postEntry a w).pending = s.pending ∧ (∀ x : MasterId, (s.postEntry a w).master x = s.master x) ∧
    (∀ x : TagId, (s.postEntry a w).tag x = s.tag x) ∧ (∀ x : MasterId, (s.postEntry a w).context x = s.context x) := by
  repeat (first | exact rfl | exact fun _ => rfl | refine ⟨?_, ?_⟩)

@[simp] theorem State.charge_frame (s : State) (m : MasterId) (k : Nat) (line : Line) (cause : FaultCause) :
    (s.charge m k line cause).areas = s.areas ∧ (s.charge m k line cause).tags = s.tags ∧
    (s.charge m k line cause).holdList = s.holdList ∧ (s.charge m k line cause).nextPlace = s.nextPlace ∧
    (s.charge m k line cause).pointer = s.pointer ∧ (s.charge m k line cause).faultLog = s.faultLog ∧
    (s.charge m k line cause).overflowCount = s.overflowCount ∧ (s.charge m k line cause).recordCounter = s.recordCounter ∧
    (s.charge m k line cause).rstreq = s.rstreq ∧ (s.charge m k line cause).events = s.events ∧
    (s.charge m k line cause).alertMask = s.alertMask ∧ (s.charge m k line cause).timeout = s.timeout ∧
    (s.charge m k line cause).arbitration = s.arbitration ∧ (s.charge m k line cause).overflowEscalates = s.overflowEscalates ∧
    (s.charge m k line cause).frame = s.frame ∧ (s.charge m k line cause).mode = s.mode ∧
    (s.charge m k line cause).resetRecord = s.resetRecord ∧ (s.charge m k line cause).responses = s.responses ∧
    (s.charge m k line cause).resetHeld = s.resetHeld ∧ (s.charge m k line cause).straps = s.straps ∧
    (s.charge m k line cause).memoryReady = s.memoryReady ∧ (s.charge m k line cause).now = s.now ∧
    (s.charge m k line cause).pending = s.pending ∧ (∀ x : AreaId, (s.charge m k line cause).area x = s.area x) ∧
    (∀ x : TagId, (s.charge m k line cause).tag x = s.tag x) := by
  repeat (first | exact rfl | exact fun _ => rfl | refine ⟨?_, ?_⟩)

@[simp] theorem State.clearAccount_frame (s : State) (m : MasterId) :
    (s.clearAccount m).areas = s.areas ∧ (s.clearAccount m).tags = s.tags ∧ (s.clearAccount m).holdList = s.holdList ∧
    (s.clearAccount m).nextPlace = s.nextPlace ∧ (s.clearAccount m).pointer = s.pointer ∧
    (s.clearAccount m).faultLog = s.faultLog ∧ (s.clearAccount m).overflowCount = s.overflowCount ∧
    (s.clearAccount m).recordCounter = s.recordCounter ∧ (s.clearAccount m).rstreq = s.rstreq ∧
    (s.clearAccount m).events = s.events ∧ (s.clearAccount m).alertMask = s.alertMask ∧ (s.clearAccount m).timeout = s.timeout ∧
    (s.clearAccount m).arbitration = s.arbitration ∧ (s.clearAccount m).overflowEscalates = s.overflowEscalates ∧
    (s.clearAccount m).frame = s.frame ∧ (s.clearAccount m).mode = s.mode ∧ (s.clearAccount m).resetRecord = s.resetRecord ∧
    (s.clearAccount m).responses = s.responses ∧ (s.clearAccount m).resetHeld = s.resetHeld ∧
    (s.clearAccount m).straps = s.straps ∧ (s.clearAccount m).memoryReady = s.memoryReady ∧ (s.clearAccount m).now = s.now ∧
    (s.clearAccount m).pending = s.pending ∧ (∀ x : AreaId, (s.clearAccount m).area x = s.area x) ∧
    (∀ x : TagId, (s.clearAccount m).tag x = s.tag x) := by
  repeat (first | exact rfl | exact fun _ => rfl | refine ⟨?_, ?_⟩)

@[simp] theorem State.escalation_frame (s : State) :
    (s.escalation).areas = s.areas ∧ (s.escalation).masters = s.masters ∧ (s.escalation).tags = s.tags ∧
    (s.escalation).holdList = s.holdList ∧ (s.escalation).nextPlace = s.nextPlace ∧ (s.escalation).pointer = s.pointer ∧
    (s.escalation).faultLog = s.faultLog ∧ (s.escalation).overflowCount = s.overflowCount ∧
    (s.escalation).recordCounter = s.recordCounter ∧ (s.escalation).alertMask = s.alertMask ∧
    (s.escalation).timeout = s.timeout ∧ (s.escalation).arbitration = s.arbitration ∧
    (s.escalation).overflowEscalates = s.overflowEscalates ∧ (s.escalation).frame = s.frame ∧ (s.escalation).mode = s.mode ∧
    (s.escalation).resetRecord = s.resetRecord ∧ (s.escalation).responses = s.responses ∧
    (s.escalation).resetHeld = s.resetHeld ∧ (s.escalation).straps = s.straps ∧ (s.escalation).memoryReady = s.memoryReady ∧
    (s.escalation).now = s.now ∧ (s.escalation).pending = s.pending ∧ (∀ x : AreaId, (s.escalation).area x = s.area x) ∧
    (∀ x : MasterId, (s.escalation).master x = s.master x) ∧ (∀ x : TagId, (s.escalation).tag x = s.tag x) ∧
    (∀ x : MasterId, (s.escalation).context x = s.context x) := by
  repeat (first | exact rfl | exact fun _ => rfl | refine ⟨?_, ?_⟩)

@[simp] theorem State.freeStale_frame (s : State) :
    (s.freeStale).areas = s.areas ∧ (s.freeStale).masters = s.masters ∧ (s.freeStale).holdList = s.holdList ∧
    (s.freeStale).nextPlace = s.nextPlace ∧ (s.freeStale).pointer = s.pointer ∧ (s.freeStale).faultLog = s.faultLog ∧
    (s.freeStale).overflowCount = s.overflowCount ∧ (s.freeStale).recordCounter = s.recordCounter ∧
    (s.freeStale).rstreq = s.rstreq ∧ (s.freeStale).events = s.events ∧ (s.freeStale).alertMask = s.alertMask ∧
    (s.freeStale).timeout = s.timeout ∧ (s.freeStale).arbitration = s.arbitration ∧
    (s.freeStale).overflowEscalates = s.overflowEscalates ∧ (s.freeStale).frame = s.frame ∧ (s.freeStale).mode = s.mode ∧
    (s.freeStale).resetRecord = s.resetRecord ∧ (s.freeStale).responses = s.responses ∧ (s.freeStale).resetHeld = s.resetHeld ∧
    (s.freeStale).straps = s.straps ∧ (s.freeStale).memoryReady = s.memoryReady ∧ (s.freeStale).now = s.now ∧
    (s.freeStale).pending = s.pending ∧ (∀ x : AreaId, (s.freeStale).area x = s.area x) ∧
    (∀ x : MasterId, (s.freeStale).master x = s.master x) ∧ (∀ x : MasterId, (s.freeStale).context x = s.context x) := by
  repeat (first | exact rfl | exact fun _ => rfl | refine ⟨?_, ?_⟩)

@[simp] theorem State.issueHead_frame (s : State) (a : AreaId) (t : TagId) :
    (s.issueHead a t).masters = s.masters ∧ (s.issueHead a t).holdList = s.holdList ∧
    (s.issueHead a t).nextPlace = s.nextPlace ∧ (s.issueHead a t).faultLog = s.faultLog ∧
    (s.issueHead a t).overflowCount = s.overflowCount ∧ (s.issueHead a t).recordCounter = s.recordCounter ∧
    (s.issueHead a t).rstreq = s.rstreq ∧ (s.issueHead a t).events = s.events ∧ (s.issueHead a t).alertMask = s.alertMask ∧
    (s.issueHead a t).timeout = s.timeout ∧ (s.issueHead a t).arbitration = s.arbitration ∧
    (s.issueHead a t).overflowEscalates = s.overflowEscalates ∧ (s.issueHead a t).frame = s.frame ∧
    (s.issueHead a t).mode = s.mode ∧ (s.issueHead a t).resetRecord = s.resetRecord ∧
    (s.issueHead a t).responses = s.responses ∧ (s.issueHead a t).resetHeld = s.resetHeld ∧
    (s.issueHead a t).straps = s.straps ∧ (s.issueHead a t).now = s.now ∧
    (s.issueHead a t).pending = s.pending ∧ (∀ x : MasterId, (s.issueHead a t).master x = s.master x) ∧
    (∀ x : MasterId, (s.issueHead a t).context x = s.context x) := by
  unfold State.issueHead; (repeat' split) <;> simp

@[simp] theorem State.issueMaster_frame (s : State) (m : MasterId) (t : TagId) :
    (s.issueMaster m t).areas = s.areas ∧ (s.issueMaster m t).nextPlace = s.nextPlace ∧
    (s.issueMaster m t).pointer = s.pointer ∧ (s.issueMaster m t).faultLog = s.faultLog ∧
    (s.issueMaster m t).overflowCount = s.overflowCount ∧ (s.issueMaster m t).recordCounter = s.recordCounter ∧
    (s.issueMaster m t).rstreq = s.rstreq ∧ (s.issueMaster m t).events = s.events ∧
    (s.issueMaster m t).alertMask = s.alertMask ∧ (s.issueMaster m t).timeout = s.timeout ∧
    (s.issueMaster m t).arbitration = s.arbitration ∧ (s.issueMaster m t).overflowEscalates = s.overflowEscalates ∧
    (s.issueMaster m t).frame = s.frame ∧ (s.issueMaster m t).mode = s.mode ∧ (s.issueMaster m t).resetRecord = s.resetRecord ∧
    (s.issueMaster m t).responses = s.responses ∧ (s.issueMaster m t).resetHeld = s.resetHeld ∧
    (s.issueMaster m t).straps = s.straps ∧ (s.issueMaster m t).now = s.now ∧
    (s.issueMaster m t).pending = s.pending ∧ (∀ x : AreaId, (s.issueMaster m t).area x = s.area x) := by
  unfold State.issueMaster; (repeat' split) <;> simp

@[simp] theorem State.issue_frame (s : State) (c : Claimant) (t : TagId) :
    (s.issue c t).nextPlace = s.nextPlace ∧ (s.issue c t).faultLog = s.faultLog ∧
    (s.issue c t).overflowCount = s.overflowCount ∧ (s.issue c t).recordCounter = s.recordCounter ∧
    (s.issue c t).rstreq = s.rstreq ∧ (s.issue c t).events = s.events ∧ (s.issue c t).alertMask = s.alertMask ∧
    (s.issue c t).timeout = s.timeout ∧ (s.issue c t).arbitration = s.arbitration ∧
    (s.issue c t).overflowEscalates = s.overflowEscalates ∧ (s.issue c t).frame = s.frame ∧ (s.issue c t).mode = s.mode ∧
    (s.issue c t).resetRecord = s.resetRecord ∧ (s.issue c t).responses = s.responses ∧ (s.issue c t).resetHeld = s.resetHeld ∧
    (s.issue c t).straps = s.straps ∧ (s.issue c t).now = s.now ∧
    (s.issue c t).pending = s.pending := by
  cases c <;> simp [State.issue]

/-- A grant is the issue of the chosen claimant on the lowest FREE tag, while the memory port can accept (R65). -/
theorem State.grantOnce_eq_some {s s' : State} (h : s.grantOnce = some s') :
    ∃ c t, s.canAccept = true ∧ s.lowestFree = some t ∧ s.chosen = some c ∧ s' = s.issue c t := by
  unfold State.grantOnce at h
  split at h
  · split at h
    · rename_i hacc _ _ t c ht hc
      exact ⟨c, t, hacc, ht, hc, (Option.some.inj h).symm⟩
    · cases h
  · cases h

/-- What every issue keeps, the arbiter keeps: the way to prove anything about the arbiter. -/
theorem State.grants_induct {P : State → Prop} (n : Nat) (s : State) (h0 : P s)
    (hstep : ∀ u c t, P u → u.canAccept = true → u.lowestFree = some t → u.chosen = some c → P (u.issue c t)) :
    P (State.grants n s) := by
  induction n generalizing s with
  | zero => exact h0
  | succ n ih =>
    unfold State.grants
    split
    · exact h0
    · rename_i s' hs
      obtain ⟨c, t, ha, ht, hc, rfl⟩ := State.grantOnce_eq_some hs
      exact ih _ (hstep s c t h0 ha ht hc)

theorem State.arbitrate_induct {P : State → Prop} (s : State) (h0 : P s)
    (hstep : ∀ u c t, P u → u.canAccept = true → u.lowestFree = some t → u.chosen = some c → P (u.issue c t)) :
    P s.arbitrate := State.grants_induct 8 s h0 hstep

@[simp] theorem State.arbitrate_frame (s : State) :
    (s.arbitrate).nextPlace = s.nextPlace ∧ (s.arbitrate).faultLog = s.faultLog ∧
    (s.arbitrate).overflowCount = s.overflowCount ∧ (s.arbitrate).recordCounter = s.recordCounter ∧
    (s.arbitrate).rstreq = s.rstreq ∧ (s.arbitrate).events = s.events ∧ (s.arbitrate).alertMask = s.alertMask ∧
    (s.arbitrate).timeout = s.timeout ∧ (s.arbitrate).arbitration = s.arbitration ∧
    (s.arbitrate).overflowEscalates = s.overflowEscalates ∧ (s.arbitrate).frame = s.frame ∧ (s.arbitrate).mode = s.mode ∧
    (s.arbitrate).resetRecord = s.resetRecord ∧ (s.arbitrate).responses = s.responses ∧ (s.arbitrate).resetHeld = s.resetHeld ∧
    (s.arbitrate).straps = s.straps ∧ (s.arbitrate).now = s.now ∧
    (s.arbitrate).pending = s.pending := by
  refine State.arbitrate_induct (P := fun (u : State) => u.nextPlace = s.nextPlace ∧ u.faultLog = s.faultLog ∧
        u.overflowCount = s.overflowCount ∧ u.recordCounter = s.recordCounter ∧ u.rstreq = s.rstreq ∧ u.events = s.events ∧
        u.alertMask = s.alertMask ∧ u.timeout = s.timeout ∧ u.arbitration = s.arbitration ∧
        u.overflowEscalates = s.overflowEscalates ∧ u.frame = s.frame ∧ u.mode = s.mode ∧ u.resetRecord = s.resetRecord ∧
        u.responses = s.responses ∧ u.resetHeld = s.resetHeld ∧ u.straps = s.straps ∧
        u.now = s.now ∧ u.pending = s.pending) s (by simp) ?_
  intro u c t h _ _ _
  simpa using h

@[simp] theorem State.answerDeferred_frame (s : State) (m : MasterId) :
    (s.answerDeferred m).areas = s.areas ∧ (s.answerDeferred m).tags = s.tags ∧ (s.answerDeferred m).holdList = s.holdList ∧
    (s.answerDeferred m).nextPlace = s.nextPlace ∧ (s.answerDeferred m).pointer = s.pointer ∧
    (s.answerDeferred m).faultLog = s.faultLog ∧ (s.answerDeferred m).overflowCount = s.overflowCount ∧
    (s.answerDeferred m).recordCounter = s.recordCounter ∧ (s.answerDeferred m).rstreq = s.rstreq ∧
    (s.answerDeferred m).events = s.events ∧ (s.answerDeferred m).alertMask = s.alertMask ∧
    (s.answerDeferred m).timeout = s.timeout ∧ (s.answerDeferred m).arbitration = s.arbitration ∧
    (s.answerDeferred m).overflowEscalates = s.overflowEscalates ∧ (s.answerDeferred m).frame = s.frame ∧
    (s.answerDeferred m).mode = s.mode ∧ (s.answerDeferred m).resetRecord = s.resetRecord ∧
    (s.answerDeferred m).resetHeld = s.resetHeld ∧ (s.answerDeferred m).straps = s.straps ∧
    (s.answerDeferred m).memoryReady = s.memoryReady ∧ (s.answerDeferred m).now = s.now ∧
    (s.answerDeferred m).pending = s.pending ∧ (∀ x : AreaId, (s.answerDeferred m).area x = s.area x) ∧
    (∀ x : TagId, (s.answerDeferred m).tag x = s.tag x) := by
  simp [State.answerDeferred]

@[simp] theorem State.answerSync_frame (s : State) (m : MasterId) :
    (s.answerSync m).areas = s.areas ∧ (s.answerSync m).tags = s.tags ∧ (s.answerSync m).holdList = s.holdList ∧
    (s.answerSync m).nextPlace = s.nextPlace ∧ (s.answerSync m).pointer = s.pointer ∧ (s.answerSync m).faultLog = s.faultLog ∧
    (s.answerSync m).overflowCount = s.overflowCount ∧ (s.answerSync m).recordCounter = s.recordCounter ∧
    (s.answerSync m).rstreq = s.rstreq ∧ (s.answerSync m).events = s.events ∧ (s.answerSync m).alertMask = s.alertMask ∧
    (s.answerSync m).timeout = s.timeout ∧ (s.answerSync m).arbitration = s.arbitration ∧
    (s.answerSync m).overflowEscalates = s.overflowEscalates ∧ (s.answerSync m).frame = s.frame ∧
    (s.answerSync m).mode = s.mode ∧ (s.answerSync m).resetRecord = s.resetRecord ∧ (s.answerSync m).resetHeld = s.resetHeld ∧
    (s.answerSync m).straps = s.straps ∧ (s.answerSync m).memoryReady = s.memoryReady ∧ (s.answerSync m).now = s.now ∧
    (s.answerSync m).pending = s.pending ∧ (∀ x : AreaId, (s.answerSync m).area x = s.area x) ∧
    (∀ x : TagId, (s.answerSync m).tag x = s.tag x) := by
  unfold State.answerSync; (repeat' split) <;> simp

@[simp] theorem State.answerHaltTerms_frame (s : State) (m : MasterId) :
    (s.answerHaltTerms m).areas = s.areas ∧ (s.answerHaltTerms m).tags = s.tags ∧ (s.answerHaltTerms m).holdList = s.holdList ∧
    (s.answerHaltTerms m).nextPlace = s.nextPlace ∧ (s.answerHaltTerms m).pointer = s.pointer ∧
    (s.answerHaltTerms m).faultLog = s.faultLog ∧ (s.answerHaltTerms m).overflowCount = s.overflowCount ∧
    (s.answerHaltTerms m).recordCounter = s.recordCounter ∧ (s.answerHaltTerms m).rstreq = s.rstreq ∧
    (s.answerHaltTerms m).events = s.events ∧ (s.answerHaltTerms m).alertMask = s.alertMask ∧
    (s.answerHaltTerms m).timeout = s.timeout ∧ (s.answerHaltTerms m).arbitration = s.arbitration ∧
    (s.answerHaltTerms m).overflowEscalates = s.overflowEscalates ∧ (s.answerHaltTerms m).frame = s.frame ∧
    (s.answerHaltTerms m).mode = s.mode ∧ (s.answerHaltTerms m).resetRecord = s.resetRecord ∧
    (s.answerHaltTerms m).resetHeld = s.resetHeld ∧ (s.answerHaltTerms m).straps = s.straps ∧
    (s.answerHaltTerms m).memoryReady = s.memoryReady ∧ (s.answerHaltTerms m).now = s.now ∧
    (s.answerHaltTerms m).pending = s.pending ∧ (∀ x : AreaId, (s.answerHaltTerms m).area x = s.area x) ∧
    (∀ x : TagId, (s.answerHaltTerms m).tag x = s.tag x) := by
  unfold State.answerHaltTerms; (repeat' split) <;> simp

@[simp] theorem State.loseRecord_frame (s : State) (k : Nat) :
    (s.loseRecord k).areas = s.areas ∧ (s.loseRecord k).masters = s.masters ∧ (s.loseRecord k).tags = s.tags ∧
    (s.loseRecord k).holdList = s.holdList ∧ (s.loseRecord k).nextPlace = s.nextPlace ∧ (s.loseRecord k).pointer = s.pointer ∧
    (s.loseRecord k).faultLog = s.faultLog ∧ (s.loseRecord k).recordCounter = s.recordCounter ∧
    (s.loseRecord k).alertMask = s.alertMask ∧ (s.loseRecord k).timeout = s.timeout ∧
    (s.loseRecord k).arbitration = s.arbitration ∧ (s.loseRecord k).overflowEscalates = s.overflowEscalates ∧
    (s.loseRecord k).frame = s.frame ∧ (s.loseRecord k).mode = s.mode ∧ (s.loseRecord k).resetRecord = s.resetRecord ∧
    (s.loseRecord k).responses = s.responses ∧ (s.loseRecord k).resetHeld = s.resetHeld ∧ (s.loseRecord k).straps = s.straps ∧
    (s.loseRecord k).memoryReady = s.memoryReady ∧ (s.loseRecord k).now = s.now ∧ (s.loseRecord k).pending = s.pending ∧
    (∀ x : AreaId, (s.loseRecord k).area x = s.area x) ∧ (∀ x : MasterId, (s.loseRecord k).master x = s.master x) ∧
    (∀ x : TagId, (s.loseRecord k).tag x = s.tag x) ∧ (∀ x : MasterId, (s.loseRecord k).context x = s.context x) := by
  unfold State.loseRecord; dsimp only; split <;> simp <;> and_intros <;> exact fun _ => rfl

@[simp] theorem State.makeRecord_frame (s : State) (r : FaultRecord) :
    (s.makeRecord r).areas = s.areas ∧ (s.makeRecord r).masters = s.masters ∧ (s.makeRecord r).tags = s.tags ∧
    (s.makeRecord r).holdList = s.holdList ∧ (s.makeRecord r).nextPlace = s.nextPlace ∧ (s.makeRecord r).pointer = s.pointer ∧
    (s.makeRecord r).alertMask = s.alertMask ∧ (s.makeRecord r).timeout = s.timeout ∧
    (s.makeRecord r).arbitration = s.arbitration ∧ (s.makeRecord r).overflowEscalates = s.overflowEscalates ∧
    (s.makeRecord r).frame = s.frame ∧ (s.makeRecord r).mode = s.mode ∧ (s.makeRecord r).resetRecord = s.resetRecord ∧
    (s.makeRecord r).responses = s.responses ∧ (s.makeRecord r).resetHeld = s.resetHeld ∧ (s.makeRecord r).straps = s.straps ∧
    (s.makeRecord r).memoryReady = s.memoryReady ∧ (s.makeRecord r).now = s.now ∧ (s.makeRecord r).pending = s.pending ∧
    (∀ x : AreaId, (s.makeRecord r).area x = s.area x) ∧ (∀ x : MasterId, (s.makeRecord r).master x = s.master x) ∧
    (∀ x : TagId, (s.makeRecord r).tag x = s.tag x) ∧ (∀ x : MasterId, (s.makeRecord r).context x = s.context x) := by
  unfold State.makeRecord; dsimp only; split <;> simp <;> and_intros <;> exact fun _ => rfl

@[simp] theorem State.recordThrough_frame (s : State) (m : MasterId) (line : Line) (mask : Mask) (cause : FaultCause) :
    (s.recordThrough m line mask cause).areas = s.areas ∧ (s.recordThrough m line mask cause).masters = s.masters ∧
    (s.recordThrough m line mask cause).tags = s.tags ∧ (s.recordThrough m line mask cause).holdList = s.holdList ∧
    (s.recordThrough m line mask cause).nextPlace = s.nextPlace ∧ (s.recordThrough m line mask cause).pointer = s.pointer ∧
    (s.recordThrough m line mask cause).alertMask = s.alertMask ∧ (s.recordThrough m line mask cause).timeout = s.timeout ∧
    (s.recordThrough m line mask cause).arbitration = s.arbitration ∧
    (s.recordThrough m line mask cause).overflowEscalates = s.overflowEscalates ∧
    (s.recordThrough m line mask cause).frame = s.frame ∧ (s.recordThrough m line mask cause).mode = s.mode ∧
    (s.recordThrough m line mask cause).resetRecord = s.resetRecord ∧
    (s.recordThrough m line mask cause).responses = s.responses ∧ (s.recordThrough m line mask cause).resetHeld = s.resetHeld ∧
    (s.recordThrough m line mask cause).straps = s.straps ∧ (s.recordThrough m line mask cause).memoryReady = s.memoryReady ∧
    (s.recordThrough m line mask cause).now = s.now ∧ (s.recordThrough m line mask cause).pending = s.pending ∧
    (∀ x : AreaId, (s.recordThrough m line mask cause).area x = s.area x) ∧
    (∀ x : MasterId, (s.recordThrough m line mask cause).master x = s.master x) ∧
    (∀ x : TagId, (s.recordThrough m line mask cause).tag x = s.tag x) ∧
    (∀ x : MasterId, (s.recordThrough m line mask cause).context x = s.context x) := by
  simp [State.recordThrough]

@[simp] theorem State.dropEntries_frame (s : State) (a : AreaId) (cause : FaultCause) (drop : Entry → Bool) :
    (s.dropEntries a cause drop).tags = s.tags ∧ (s.dropEntries a cause drop).holdList = s.holdList ∧
    (s.dropEntries a cause drop).nextPlace = s.nextPlace ∧ (s.dropEntries a cause drop).pointer = s.pointer ∧
    (s.dropEntries a cause drop).alertMask = s.alertMask ∧ (s.dropEntries a cause drop).timeout = s.timeout ∧
    (s.dropEntries a cause drop).arbitration = s.arbitration ∧
    (s.dropEntries a cause drop).overflowEscalates = s.overflowEscalates ∧ (s.dropEntries a cause drop).frame = s.frame ∧
    (s.dropEntries a cause drop).mode = s.mode ∧ (s.dropEntries a cause drop).resetRecord = s.resetRecord ∧
    (s.dropEntries a cause drop).responses = s.responses ∧ (s.dropEntries a cause drop).resetHeld = s.resetHeld ∧
    (s.dropEntries a cause drop).straps = s.straps ∧ (s.dropEntries a cause drop).memoryReady = s.memoryReady ∧
    (s.dropEntries a cause drop).now = s.now ∧ (s.dropEntries a cause drop).pending = s.pending ∧
    (∀ x : TagId, (s.dropEntries a cause drop).tag x = s.tag x) ∧
    (∀ x : MasterId, (s.dropEntries a cause drop).context x = s.context x) := by
  unfold State.dropEntries; dsimp only; split <;> simp

@[simp] theorem State.answerStrict_frame (s : State) (a : AreaId) (place : Nat) (body : AnswerBody) :
    (s.answerStrict a place body).areas = s.areas ∧ (s.answerStrict a place body).tags = s.tags ∧
    (s.answerStrict a place body).holdList = s.holdList ∧ (s.answerStrict a place body).nextPlace = s.nextPlace ∧
    (s.answerStrict a place body).pointer = s.pointer ∧ (s.answerStrict a place body).faultLog = s.faultLog ∧
    (s.answerStrict a place body).overflowCount = s.overflowCount ∧
    (s.answerStrict a place body).recordCounter = s.recordCounter ∧ (s.answerStrict a place body).rstreq = s.rstreq ∧
    (s.answerStrict a place body).events = s.events ∧ (s.answerStrict a place body).alertMask = s.alertMask ∧
    (s.answerStrict a place body).timeout = s.timeout ∧ (s.answerStrict a place body).arbitration = s.arbitration ∧
    (s.answerStrict a place body).overflowEscalates = s.overflowEscalates ∧ (s.answerStrict a place body).frame = s.frame ∧
    (s.answerStrict a place body).mode = s.mode ∧ (s.answerStrict a place body).resetRecord = s.resetRecord ∧
    (s.answerStrict a place body).resetHeld = s.resetHeld ∧ (s.answerStrict a place body).straps = s.straps ∧
    (s.answerStrict a place body).memoryReady = s.memoryReady ∧ (s.answerStrict a place body).now = s.now ∧
    (s.answerStrict a place body).pending = s.pending ∧ (∀ x : AreaId, (s.answerStrict a place body).area x = s.area x) ∧
    (∀ x : TagId, (s.answerStrict a place body).tag x = s.tag x) := by
  unfold State.answerStrict; (repeat' split) <;> simp

@[simp] theorem State.cutDrain_frame (s : State) (a : AreaId) :
    (s.cutDrain a).masters = s.masters ∧ (s.cutDrain a).tags = s.tags ∧ (s.cutDrain a).holdList = s.holdList ∧
    (s.cutDrain a).nextPlace = s.nextPlace ∧ (s.cutDrain a).pointer = s.pointer ∧ (s.cutDrain a).faultLog = s.faultLog ∧
    (s.cutDrain a).overflowCount = s.overflowCount ∧ (s.cutDrain a).recordCounter = s.recordCounter ∧
    (s.cutDrain a).rstreq = s.rstreq ∧ (s.cutDrain a).alertMask = s.alertMask ∧ (s.cutDrain a).timeout = s.timeout ∧
    (s.cutDrain a).arbitration = s.arbitration ∧ (s.cutDrain a).overflowEscalates = s.overflowEscalates ∧
    (s.cutDrain a).frame = s.frame ∧ (s.cutDrain a).mode = s.mode ∧ (s.cutDrain a).resetRecord = s.resetRecord ∧
    (s.cutDrain a).responses = s.responses ∧ (s.cutDrain a).resetHeld = s.resetHeld ∧ (s.cutDrain a).straps = s.straps ∧
    (s.cutDrain a).memoryReady = s.memoryReady ∧ (s.cutDrain a).now = s.now ∧ (s.cutDrain a).pending = s.pending ∧
    (∀ x : MasterId, (s.cutDrain a).master x = s.master x) ∧ (∀ x : TagId, (s.cutDrain a).tag x = s.tag x) ∧
    (∀ x : MasterId, (s.cutDrain a).context x = s.context x) := by
  unfold State.cutDrain; (repeat' split) <;> simp

/-- What every step of a fold keeps, the fold keeps. -/
theorem foldl_keeps {α β : Type} {P : β → Prop} (f : β → α → β) (l : List α) (b : β) (h0 : P b)
    (hstep : ∀ b a, a ∈ l → P b → P (f b a)) : P (l.foldl f b) := by
  induction l generalizing b with
  | nil => exact h0
  | cons a l ih =>
    exact ih (f b a) (hstep b a (by simp) h0) fun b a' ha => hstep b a' (by simp [ha])

@[simp] theorem State.removeStrict_frame (s : State) (a : AreaId) :
    (s.removeStrict a).tags = s.tags ∧ (s.removeStrict a).holdList = s.holdList ∧ (s.removeStrict a).nextPlace = s.nextPlace ∧
    (s.removeStrict a).pointer = s.pointer ∧ (s.removeStrict a).faultLog = s.faultLog ∧
    (s.removeStrict a).overflowCount = s.overflowCount ∧ (s.removeStrict a).recordCounter = s.recordCounter ∧
    (s.removeStrict a).rstreq = s.rstreq ∧ (s.removeStrict a).events = s.events ∧ (s.removeStrict a).alertMask = s.alertMask ∧
    (s.removeStrict a).timeout = s.timeout ∧ (s.removeStrict a).arbitration = s.arbitration ∧
    (s.removeStrict a).overflowEscalates = s.overflowEscalates ∧ (s.removeStrict a).frame = s.frame ∧
    (s.removeStrict a).mode = s.mode ∧ (s.removeStrict a).resetRecord = s.resetRecord ∧
    (s.removeStrict a).resetHeld = s.resetHeld ∧ (s.removeStrict a).straps = s.straps ∧
    (s.removeStrict a).memoryReady = s.memoryReady ∧ (s.removeStrict a).now = s.now ∧ (s.removeStrict a).pending = s.pending ∧
    (∀ x : TagId, (s.removeStrict a).tag x = s.tag x) := by
  unfold State.removeStrict
  refine foldl_keeps (P := fun (u : State) => u.tags = s.tags ∧ u.holdList = s.holdList ∧ u.nextPlace = s.nextPlace ∧
        u.pointer = s.pointer ∧ u.faultLog = s.faultLog ∧ u.overflowCount = s.overflowCount ∧
        u.recordCounter = s.recordCounter ∧ u.rstreq = s.rstreq ∧ u.events = s.events ∧ u.alertMask = s.alertMask ∧
        u.timeout = s.timeout ∧ u.arbitration = s.arbitration ∧ u.overflowEscalates = s.overflowEscalates ∧
        u.frame = s.frame ∧ u.mode = s.mode ∧ u.resetRecord = s.resetRecord ∧ u.resetHeld = s.resetHeld ∧
        u.straps = s.straps ∧ u.memoryReady = s.memoryReady ∧ u.now = s.now ∧ u.pending = s.pending ∧
        (∀ x : TagId, u.tag x = s.tag x)) _ _ _ (by simp) ?_
  intro u e _ h
  simpa using h

@[simp] theorem State.haltMaster_frame (s : State) (a : AreaId) :
    (s.haltMaster a).areas = s.areas ∧ (s.haltMaster a).tags = s.tags ∧ (s.haltMaster a).holdList = s.holdList ∧
    (s.haltMaster a).nextPlace = s.nextPlace ∧ (s.haltMaster a).pointer = s.pointer ∧ (s.haltMaster a).faultLog = s.faultLog ∧
    (s.haltMaster a).overflowCount = s.overflowCount ∧ (s.haltMaster a).recordCounter = s.recordCounter ∧
    (s.haltMaster a).rstreq = s.rstreq ∧ (s.haltMaster a).events = s.events ∧ (s.haltMaster a).alertMask = s.alertMask ∧
    (s.haltMaster a).timeout = s.timeout ∧ (s.haltMaster a).arbitration = s.arbitration ∧
    (s.haltMaster a).overflowEscalates = s.overflowEscalates ∧ (s.haltMaster a).frame = s.frame ∧
    (s.haltMaster a).mode = s.mode ∧ (s.haltMaster a).resetRecord = s.resetRecord ∧ (s.haltMaster a).resetHeld = s.resetHeld ∧
    (s.haltMaster a).straps = s.straps ∧ (s.haltMaster a).memoryReady = s.memoryReady ∧ (s.haltMaster a).now = s.now ∧
    (s.haltMaster a).pending = s.pending ∧ (∀ x : AreaId, (s.haltMaster a).area x = s.area x) ∧
    (∀ x : TagId, (s.haltMaster a).tag x = s.tag x) := by
  unfold State.haltMaster; (repeat' split) <;> simp

@[simp] theorem State.refuseHolds_frame (s : State) (a : AreaId) :
    (s.refuseHolds a).areas = s.areas ∧ (s.refuseHolds a).tags = s.tags ∧ (s.refuseHolds a).nextPlace = s.nextPlace ∧
    (s.refuseHolds a).pointer = s.pointer ∧ (s.refuseHolds a).faultLog = s.faultLog ∧
    (s.refuseHolds a).overflowCount = s.overflowCount ∧ (s.refuseHolds a).recordCounter = s.recordCounter ∧
    (s.refuseHolds a).rstreq = s.rstreq ∧ (s.refuseHolds a).events = s.events ∧ (s.refuseHolds a).alertMask = s.alertMask ∧
    (s.refuseHolds a).timeout = s.timeout ∧ (s.refuseHolds a).arbitration = s.arbitration ∧
    (s.refuseHolds a).overflowEscalates = s.overflowEscalates ∧ (s.refuseHolds a).frame = s.frame ∧
    (s.refuseHolds a).mode = s.mode ∧ (s.refuseHolds a).resetRecord = s.resetRecord ∧
    (s.refuseHolds a).resetHeld = s.resetHeld ∧ (s.refuseHolds a).straps = s.straps ∧
    (s.refuseHolds a).memoryReady = s.memoryReady ∧ (s.refuseHolds a).now = s.now ∧ (s.refuseHolds a).pending = s.pending ∧
    (∀ x : AreaId, (s.refuseHolds a).area x = s.area x) ∧ (∀ x : TagId, (s.refuseHolds a).tag x = s.tag x) := by
  unfold State.refuseHolds
  refine foldl_keeps (P := fun (u : State) => u.areas = s.areas ∧ u.tags = s.tags ∧ u.nextPlace = s.nextPlace ∧
        u.pointer = s.pointer ∧ u.faultLog = s.faultLog ∧ u.overflowCount = s.overflowCount ∧
        u.recordCounter = s.recordCounter ∧ u.rstreq = s.rstreq ∧ u.events = s.events ∧ u.alertMask = s.alertMask ∧
        u.timeout = s.timeout ∧ u.arbitration = s.arbitration ∧ u.overflowEscalates = s.overflowEscalates ∧
        u.frame = s.frame ∧ u.mode = s.mode ∧ u.resetRecord = s.resetRecord ∧ u.resetHeld = s.resetHeld ∧
        u.straps = s.straps ∧ u.memoryReady = s.memoryReady ∧ u.now = s.now ∧ u.pending = s.pending ∧
        (∀ x : AreaId, u.area x = s.area x) ∧
        (∀ x : TagId, u.tag x = s.tag x)) _ _ _ (by (simp; and_intros) <;> exact fun _ => rfl) ?_
  intro u e _ h
  simpa using h

@[simp] theorem State.haltArea_frame (s : State) (a : AreaId) :
    (s.haltArea a).tags = s.tags ∧ (s.haltArea a).nextPlace = s.nextPlace ∧ (s.haltArea a).pointer = s.pointer ∧
    (s.haltArea a).faultLog = s.faultLog ∧ (s.haltArea a).overflowCount = s.overflowCount ∧
    (s.haltArea a).recordCounter = s.recordCounter ∧ (s.haltArea a).rstreq = s.rstreq ∧ (s.haltArea a).alertMask = s.alertMask ∧
    (s.haltArea a).timeout = s.timeout ∧ (s.haltArea a).arbitration = s.arbitration ∧
    (s.haltArea a).overflowEscalates = s.overflowEscalates ∧ (s.haltArea a).frame = s.frame ∧ (s.haltArea a).mode = s.mode ∧
    (s.haltArea a).resetRecord = s.resetRecord ∧ (s.haltArea a).resetHeld = s.resetHeld ∧ (s.haltArea a).straps = s.straps ∧
    (s.haltArea a).memoryReady = s.memoryReady ∧ (s.haltArea a).now = s.now ∧ (s.haltArea a).pending = s.pending ∧
    (∀ x : TagId, (s.haltArea a).tag x = s.tag x) := by
  simp [State.haltArea]

@[simp] theorem State.escalateArea_frame (s : State) (a : AreaId) :
    (s.escalateArea a).areas = s.areas ∧ (s.escalateArea a).masters = s.masters ∧ (s.escalateArea a).tags = s.tags ∧
    (s.escalateArea a).holdList = s.holdList ∧ (s.escalateArea a).nextPlace = s.nextPlace ∧
    (s.escalateArea a).pointer = s.pointer ∧ (s.escalateArea a).faultLog = s.faultLog ∧
    (s.escalateArea a).overflowCount = s.overflowCount ∧ (s.escalateArea a).recordCounter = s.recordCounter ∧
    (s.escalateArea a).alertMask = s.alertMask ∧ (s.escalateArea a).timeout = s.timeout ∧
    (s.escalateArea a).arbitration = s.arbitration ∧ (s.escalateArea a).overflowEscalates = s.overflowEscalates ∧
    (s.escalateArea a).frame = s.frame ∧ (s.escalateArea a).mode = s.mode ∧ (s.escalateArea a).resetRecord = s.resetRecord ∧
    (s.escalateArea a).responses = s.responses ∧ (s.escalateArea a).resetHeld = s.resetHeld ∧
    (s.escalateArea a).straps = s.straps ∧ (s.escalateArea a).memoryReady = s.memoryReady ∧ (s.escalateArea a).now = s.now ∧
    (s.escalateArea a).pending = s.pending ∧ (∀ x : AreaId, (s.escalateArea a).area x = s.area x) ∧
    (∀ x : MasterId, (s.escalateArea a).master x = s.master x) ∧ (∀ x : TagId, (s.escalateArea a).tag x = s.tag x) ∧
    (∀ x : MasterId, (s.escalateArea a).context x = s.context x) := by
  unfold State.escalateArea; (repeat' split) <;> simp

@[simp] theorem State.recordFailure_frame (s : State) (a : AreaId) (m : MasterId) (e : Entry) (how : Failure) :
    (s.recordFailure a m e how).tags = s.tags ∧ (s.recordFailure a m e how).holdList = s.holdList ∧
    (s.recordFailure a m e how).nextPlace = s.nextPlace ∧ (s.recordFailure a m e how).pointer = s.pointer ∧
    (s.recordFailure a m e how).alertMask = s.alertMask ∧ (s.recordFailure a m e how).timeout = s.timeout ∧
    (s.recordFailure a m e how).arbitration = s.arbitration ∧
    (s.recordFailure a m e how).overflowEscalates = s.overflowEscalates ∧ (s.recordFailure a m e how).frame = s.frame ∧
    (s.recordFailure a m e how).mode = s.mode ∧ (s.recordFailure a m e how).resetRecord = s.resetRecord ∧
    (s.recordFailure a m e how).resetHeld = s.resetHeld ∧ (s.recordFailure a m e how).straps = s.straps ∧
    (s.recordFailure a m e how).memoryReady = s.memoryReady ∧ (s.recordFailure a m e how).now = s.now ∧
    (s.recordFailure a m e how).pending = s.pending ∧ (∀ x : TagId, (s.recordFailure a m e how).tag x = s.tag x) := by
  unfold State.recordFailure; dsimp only; split <;> simp

@[simp] theorem State.applyPolicy_frame (s : State) (a : AreaId) :
    (s.applyPolicy a).tags = s.tags ∧ (s.applyPolicy a).nextPlace = s.nextPlace ∧ (s.applyPolicy a).pointer = s.pointer ∧
    (s.applyPolicy a).alertMask = s.alertMask ∧ (s.applyPolicy a).timeout = s.timeout ∧
    (s.applyPolicy a).arbitration = s.arbitration ∧ (s.applyPolicy a).overflowEscalates = s.overflowEscalates ∧
    (s.applyPolicy a).frame = s.frame ∧ (s.applyPolicy a).mode = s.mode ∧ (s.applyPolicy a).resetRecord = s.resetRecord ∧
    (s.applyPolicy a).resetHeld = s.resetHeld ∧ (s.applyPolicy a).straps = s.straps ∧
    (s.applyPolicy a).memoryReady = s.memoryReady ∧ (s.applyPolicy a).now = s.now ∧ (s.applyPolicy a).pending = s.pending ∧
    (∀ x : TagId, (s.applyPolicy a).tag x = s.tag x) := by
  unfold State.applyPolicy; (repeat' split) <;> simp

@[simp] theorem State.finalFailure_frame (s : State) (a : AreaId) (e : Entry) (how : Failure) :
    (s.finalFailure a e how).tags = s.tags ∧ (s.finalFailure a e how).nextPlace = s.nextPlace ∧
    (s.finalFailure a e how).pointer = s.pointer ∧ (s.finalFailure a e how).alertMask = s.alertMask ∧
    (s.finalFailure a e how).timeout = s.timeout ∧ (s.finalFailure a e how).arbitration = s.arbitration ∧
    (s.finalFailure a e how).overflowEscalates = s.overflowEscalates ∧ (s.finalFailure a e how).frame = s.frame ∧
    (s.finalFailure a e how).mode = s.mode ∧ (s.finalFailure a e how).resetRecord = s.resetRecord ∧
    (s.finalFailure a e how).resetHeld = s.resetHeld ∧ (s.finalFailure a e how).straps = s.straps ∧
    (s.finalFailure a e how).memoryReady = s.memoryReady ∧ (s.finalFailure a e how).now = s.now ∧
    (s.finalFailure a e how).pending = s.pending ∧ (∀ x : TagId, (s.finalFailure a e how).tag x = s.tag x) := by
  unfold State.finalFailure; (repeat' split) <;> simp

@[simp] theorem State.markThrough_frame (s : State) (m : MasterId) :
    (s.markThrough m).areas = s.areas ∧ (s.markThrough m).tags = s.tags ∧ (s.markThrough m).holdList = s.holdList ∧
    (s.markThrough m).nextPlace = s.nextPlace ∧ (s.markThrough m).pointer = s.pointer ∧
    (s.markThrough m).faultLog = s.faultLog ∧ (s.markThrough m).overflowCount = s.overflowCount ∧
    (s.markThrough m).recordCounter = s.recordCounter ∧ (s.markThrough m).rstreq = s.rstreq ∧
    (s.markThrough m).alertMask = s.alertMask ∧ (s.markThrough m).timeout = s.timeout ∧
    (s.markThrough m).arbitration = s.arbitration ∧ (s.markThrough m).overflowEscalates = s.overflowEscalates ∧
    (s.markThrough m).frame = s.frame ∧ (s.markThrough m).mode = s.mode ∧ (s.markThrough m).resetRecord = s.resetRecord ∧
    (s.markThrough m).responses = s.responses ∧ (s.markThrough m).resetHeld = s.resetHeld ∧
    (s.markThrough m).straps = s.straps ∧ (s.markThrough m).memoryReady = s.memoryReady ∧ (s.markThrough m).now = s.now ∧
    (s.markThrough m).pending = s.pending ∧ (∀ x : AreaId, (s.markThrough m).area x = s.area x) ∧
    (∀ x : TagId, (s.markThrough m).tag x = s.tag x) := by
  unfold State.markThrough; (repeat' split) <;> simp

@[simp] theorem State.enterHold_frame (s : State) (m : MasterId) :
    (s.enterHold m).nextPlace = s.nextPlace ∧ (s.enterHold m).faultLog = s.faultLog ∧
    (s.enterHold m).overflowCount = s.overflowCount ∧ (s.enterHold m).recordCounter = s.recordCounter ∧
    (s.enterHold m).rstreq = s.rstreq ∧ (s.enterHold m).events = s.events ∧ (s.enterHold m).alertMask = s.alertMask ∧
    (s.enterHold m).timeout = s.timeout ∧ (s.enterHold m).arbitration = s.arbitration ∧
    (s.enterHold m).overflowEscalates = s.overflowEscalates ∧ (s.enterHold m).frame = s.frame ∧ (s.enterHold m).mode = s.mode ∧
    (s.enterHold m).resetRecord = s.resetRecord ∧ (s.enterHold m).resetHeld = s.resetHeld ∧ (s.enterHold m).straps = s.straps ∧
    (s.enterHold m).now = s.now ∧ (s.enterHold m).pending = s.pending := by
  unfold State.enterHold; dsimp only; (repeat' split) <;> simp

@[simp] theorem State.takeThrough_frame (s : State) (m : MasterId) (line : Line) (mask : Mask) (data : LineData) :
    (s.takeThrough m line mask data).nextPlace = s.nextPlace ∧ (s.takeThrough m line mask data).faultLog = s.faultLog ∧
    (s.takeThrough m line mask data).overflowCount = s.overflowCount ∧
    (s.takeThrough m line mask data).recordCounter = s.recordCounter ∧ (s.takeThrough m line mask data).rstreq = s.rstreq ∧
    (s.takeThrough m line mask data).alertMask = s.alertMask ∧ (s.takeThrough m line mask data).timeout = s.timeout ∧
    (s.takeThrough m line mask data).arbitration = s.arbitration ∧
    (s.takeThrough m line mask data).overflowEscalates = s.overflowEscalates ∧
    (s.takeThrough m line mask data).frame = s.frame ∧ (s.takeThrough m line mask data).mode = s.mode ∧
    (s.takeThrough m line mask data).resetRecord = s.resetRecord ∧ (s.takeThrough m line mask data).resetHeld = s.resetHeld ∧
    (s.takeThrough m line mask data).straps = s.straps ∧ (s.takeThrough m line mask data).now = s.now ∧ (s.takeThrough m line mask data).pending = s.pending := by
  unfold State.takeThrough; dsimp only; split <;> simp

@[simp] theorem State.decideJoined_frame (s : State) (m : MasterId) (a : AreaId) (w : WriteReq) :
    (s.decideJoined m a w).tags = s.tags ∧ (s.decideJoined m a w).holdList = s.holdList ∧
    (s.decideJoined m a w).pointer = s.pointer ∧ (s.decideJoined m a w).faultLog = s.faultLog ∧
    (s.decideJoined m a w).overflowCount = s.overflowCount ∧ (s.decideJoined m a w).recordCounter = s.recordCounter ∧
    (s.decideJoined m a w).rstreq = s.rstreq ∧ (s.decideJoined m a w).events = s.events ∧
    (s.decideJoined m a w).alertMask = s.alertMask ∧ (s.decideJoined m a w).timeout = s.timeout ∧
    (s.decideJoined m a w).arbitration = s.arbitration ∧ (s.decideJoined m a w).overflowEscalates = s.overflowEscalates ∧
    (s.decideJoined m a w).frame = s.frame ∧ (s.decideJoined m a w).mode = s.mode ∧
    (s.decideJoined m a w).resetRecord = s.resetRecord ∧ (s.decideJoined m a w).resetHeld = s.resetHeld ∧
    (s.decideJoined m a w).straps = s.straps ∧ (s.decideJoined m a w).memoryReady = s.memoryReady ∧
    (s.decideJoined m a w).now = s.now ∧ (s.decideJoined m a w).pending = s.pending ∧
    (∀ x : TagId, (s.decideJoined m a w).tag x = s.tag x) := by
  unfold State.decideJoined; (repeat' split) <;> simp

@[simp] theorem State.retryPosting_frame (s : State) (a : AreaId) :
    (s.retryPosting a).tags = s.tags ∧ (s.retryPosting a).holdList = s.holdList ∧ (s.retryPosting a).pointer = s.pointer ∧
    (s.retryPosting a).faultLog = s.faultLog ∧ (s.retryPosting a).overflowCount = s.overflowCount ∧
    (s.retryPosting a).recordCounter = s.recordCounter ∧ (s.retryPosting a).rstreq = s.rstreq ∧
    (s.retryPosting a).events = s.events ∧ (s.retryPosting a).alertMask = s.alertMask ∧ (s.retryPosting a).timeout = s.timeout ∧
    (s.retryPosting a).arbitration = s.arbitration ∧ (s.retryPosting a).overflowEscalates = s.overflowEscalates ∧
    (s.retryPosting a).frame = s.frame ∧ (s.retryPosting a).mode = s.mode ∧ (s.retryPosting a).resetRecord = s.resetRecord ∧
    (s.retryPosting a).resetHeld = s.resetHeld ∧ (s.retryPosting a).straps = s.straps ∧
    (s.retryPosting a).memoryReady = s.memoryReady ∧ (s.retryPosting a).now = s.now ∧ (s.retryPosting a).pending = s.pending ∧
    (∀ x : TagId, (s.retryPosting a).tag x = s.tag x) := by
  unfold State.retryPosting; (repeat' split) <;> simp

@[simp] theorem State.completeSync_frame (s : State) (m : MasterId) :
    (s.completeSync m).areas = s.areas ∧ (s.completeSync m).tags = s.tags ∧ (s.completeSync m).holdList = s.holdList ∧
    (s.completeSync m).nextPlace = s.nextPlace ∧ (s.completeSync m).pointer = s.pointer ∧
    (s.completeSync m).faultLog = s.faultLog ∧ (s.completeSync m).overflowCount = s.overflowCount ∧
    (s.completeSync m).recordCounter = s.recordCounter ∧ (s.completeSync m).rstreq = s.rstreq ∧
    (s.completeSync m).events = s.events ∧ (s.completeSync m).alertMask = s.alertMask ∧ (s.completeSync m).timeout = s.timeout ∧
    (s.completeSync m).arbitration = s.arbitration ∧ (s.completeSync m).overflowEscalates = s.overflowEscalates ∧
    (s.completeSync m).frame = s.frame ∧ (s.completeSync m).mode = s.mode ∧ (s.completeSync m).resetRecord = s.resetRecord ∧
    (s.completeSync m).resetHeld = s.resetHeld ∧ (s.completeSync m).straps = s.straps ∧
    (s.completeSync m).memoryReady = s.memoryReady ∧ (s.completeSync m).now = s.now ∧ (s.completeSync m).pending = s.pending ∧
    (∀ x : AreaId, (s.completeSync m).area x = s.area x) ∧ (∀ x : TagId, (s.completeSync m).tag x = s.tag x) := by
  unfold State.completeSync; (repeat' split) <;> simp

@[simp] theorem State.settleSync_frame (s : State) (a : AreaId) :
    (s.settleSync a).areas = s.areas ∧ (s.settleSync a).tags = s.tags ∧ (s.settleSync a).holdList = s.holdList ∧
    (s.settleSync a).nextPlace = s.nextPlace ∧ (s.settleSync a).pointer = s.pointer ∧ (s.settleSync a).faultLog = s.faultLog ∧
    (s.settleSync a).overflowCount = s.overflowCount ∧ (s.settleSync a).recordCounter = s.recordCounter ∧
    (s.settleSync a).rstreq = s.rstreq ∧ (s.settleSync a).events = s.events ∧ (s.settleSync a).alertMask = s.alertMask ∧
    (s.settleSync a).timeout = s.timeout ∧ (s.settleSync a).arbitration = s.arbitration ∧
    (s.settleSync a).overflowEscalates = s.overflowEscalates ∧ (s.settleSync a).frame = s.frame ∧
    (s.settleSync a).mode = s.mode ∧ (s.settleSync a).resetRecord = s.resetRecord ∧ (s.settleSync a).resetHeld = s.resetHeld ∧
    (s.settleSync a).straps = s.straps ∧ (s.settleSync a).memoryReady = s.memoryReady ∧ (s.settleSync a).now = s.now ∧
    (s.settleSync a).pending = s.pending ∧ (∀ x : AreaId, (s.settleSync a).area x = s.area x) ∧
    (∀ x : TagId, (s.settleSync a).tag x = s.tag x) := by
  unfold State.settleSync; (repeat' split) <;> simp

@[simp] theorem State.endDrain_frame (s : State) (a : AreaId) :
    (s.endDrain a).masters = s.masters ∧ (s.endDrain a).tags = s.tags ∧ (s.endDrain a).holdList = s.holdList ∧
    (s.endDrain a).nextPlace = s.nextPlace ∧ (s.endDrain a).pointer = s.pointer ∧ (s.endDrain a).faultLog = s.faultLog ∧
    (s.endDrain a).overflowCount = s.overflowCount ∧ (s.endDrain a).recordCounter = s.recordCounter ∧
    (s.endDrain a).rstreq = s.rstreq ∧ (s.endDrain a).alertMask = s.alertMask ∧ (s.endDrain a).timeout = s.timeout ∧
    (s.endDrain a).arbitration = s.arbitration ∧ (s.endDrain a).overflowEscalates = s.overflowEscalates ∧
    (s.endDrain a).frame = s.frame ∧ (s.endDrain a).mode = s.mode ∧ (s.endDrain a).resetRecord = s.resetRecord ∧
    (s.endDrain a).responses = s.responses ∧ (s.endDrain a).resetHeld = s.resetHeld ∧ (s.endDrain a).straps = s.straps ∧
    (s.endDrain a).memoryReady = s.memoryReady ∧ (s.endDrain a).now = s.now ∧ (s.endDrain a).pending = s.pending ∧
    (∀ x : MasterId, (s.endDrain a).master x = s.master x) ∧ (∀ x : TagId, (s.endDrain a).tag x = s.tag x) ∧
    (∀ x : MasterId, (s.endDrain a).context x = s.context x) := by
  unfold State.endDrain; (repeat' split) <;> simp

@[simp] theorem State.beginDetach_frame (s : State) (a : AreaId) (op : LongOp) :
    (s.beginDetach a op).tags = s.tags ∧ (s.beginDetach a op).holdList = s.holdList ∧
    (s.beginDetach a op).nextPlace = s.nextPlace ∧ (s.beginDetach a op).pointer = s.pointer ∧
    (s.beginDetach a op).faultLog = s.faultLog ∧ (s.beginDetach a op).overflowCount = s.overflowCount ∧
    (s.beginDetach a op).recordCounter = s.recordCounter ∧ (s.beginDetach a op).rstreq = s.rstreq ∧
    (s.beginDetach a op).events = s.events ∧ (s.beginDetach a op).alertMask = s.alertMask ∧
    (s.beginDetach a op).timeout = s.timeout ∧ (s.beginDetach a op).arbitration = s.arbitration ∧
    (s.beginDetach a op).overflowEscalates = s.overflowEscalates ∧ (s.beginDetach a op).frame = s.frame ∧
    (s.beginDetach a op).mode = s.mode ∧ (s.beginDetach a op).resetRecord = s.resetRecord ∧
    (s.beginDetach a op).responses = s.responses ∧ (s.beginDetach a op).resetHeld = s.resetHeld ∧
    (s.beginDetach a op).straps = s.straps ∧ (s.beginDetach a op).memoryReady = s.memoryReady ∧
    (s.beginDetach a op).now = s.now ∧ (s.beginDetach a op).pending = s.pending ∧
    (∀ x : TagId, (s.beginDetach a op).tag x = s.tag x) := by
  unfold State.beginDetach; dsimp only; split <;> simp

@[simp] theorem State.finishPurge_frame (s : State) (a : AreaId) :
    (s.finishPurge a).tags = s.tags ∧ (s.finishPurge a).holdList = s.holdList ∧ (s.finishPurge a).nextPlace = s.nextPlace ∧
    (s.finishPurge a).pointer = s.pointer ∧ (s.finishPurge a).faultLog = s.faultLog ∧
    (s.finishPurge a).overflowCount = s.overflowCount ∧ (s.finishPurge a).recordCounter = s.recordCounter ∧
    (s.finishPurge a).rstreq = s.rstreq ∧ (s.finishPurge a).alertMask = s.alertMask ∧ (s.finishPurge a).timeout = s.timeout ∧
    (s.finishPurge a).arbitration = s.arbitration ∧ (s.finishPurge a).overflowEscalates = s.overflowEscalates ∧
    (s.finishPurge a).frame = s.frame ∧ (s.finishPurge a).mode = s.mode ∧ (s.finishPurge a).resetRecord = s.resetRecord ∧
    (s.finishPurge a).responses = s.responses ∧ (s.finishPurge a).resetHeld = s.resetHeld ∧
    (s.finishPurge a).straps = s.straps ∧ (s.finishPurge a).memoryReady = s.memoryReady ∧ (s.finishPurge a).now = s.now ∧
    (s.finishPurge a).pending = s.pending ∧ (∀ x : TagId, (s.finishPurge a).tag x = s.tag x) := by
  unfold State.finishPurge; dsimp only; (repeat' split) <;> simp

@[simp] theorem State.endPurge_frame (s : State) (a : AreaId) :
    (s.endPurge a).tags = s.tags ∧ (s.endPurge a).holdList = s.holdList ∧ (s.endPurge a).nextPlace = s.nextPlace ∧
    (s.endPurge a).pointer = s.pointer ∧ (s.endPurge a).faultLog = s.faultLog ∧ (s.endPurge a).overflowCount = s.overflowCount ∧
    (s.endPurge a).recordCounter = s.recordCounter ∧ (s.endPurge a).rstreq = s.rstreq ∧ (s.endPurge a).alertMask = s.alertMask ∧
    (s.endPurge a).timeout = s.timeout ∧ (s.endPurge a).arbitration = s.arbitration ∧
    (s.endPurge a).overflowEscalates = s.overflowEscalates ∧ (s.endPurge a).frame = s.frame ∧ (s.endPurge a).mode = s.mode ∧
    (s.endPurge a).resetRecord = s.resetRecord ∧ (s.endPurge a).responses = s.responses ∧
    (s.endPurge a).resetHeld = s.resetHeld ∧ (s.endPurge a).straps = s.straps ∧ (s.endPurge a).memoryReady = s.memoryReady ∧
    (s.endPurge a).now = s.now ∧ (s.endPurge a).pending = s.pending ∧ (∀ x : TagId, (s.endPurge a).tag x = s.tag x) := by
  unfold State.endPurge; (repeat' split) <;> simp

@[simp] theorem State.endDetach_frame (s : State) (a : AreaId) :
    (s.endDetach a).tags = s.tags ∧ (s.endDetach a).holdList = s.holdList ∧ (s.endDetach a).nextPlace = s.nextPlace ∧
    (s.endDetach a).pointer = s.pointer ∧ (s.endDetach a).faultLog = s.faultLog ∧
    (s.endDetach a).overflowCount = s.overflowCount ∧ (s.endDetach a).recordCounter = s.recordCounter ∧
    (s.endDetach a).rstreq = s.rstreq ∧ (s.endDetach a).alertMask = s.alertMask ∧ (s.endDetach a).timeout = s.timeout ∧
    (s.endDetach a).arbitration = s.arbitration ∧ (s.endDetach a).overflowEscalates = s.overflowEscalates ∧
    (s.endDetach a).frame = s.frame ∧ (s.endDetach a).mode = s.mode ∧ (s.endDetach a).resetRecord = s.resetRecord ∧
    (s.endDetach a).responses = s.responses ∧ (s.endDetach a).resetHeld = s.resetHeld ∧ (s.endDetach a).straps = s.straps ∧
    (s.endDetach a).memoryReady = s.memoryReady ∧ (s.endDetach a).now = s.now ∧ (s.endDetach a).pending = s.pending ∧
    (∀ x : TagId, (s.endDetach a).tag x = s.tag x) := by
  unfold State.endDetach; dsimp only; (repeat' split) <;> simp

@[simp] theorem State.settleArea_frame (s : State) (a : AreaId) :
    (s.settleArea a).tags = s.tags ∧ (s.settleArea a).holdList = s.holdList ∧ (s.settleArea a).pointer = s.pointer ∧
    (s.settleArea a).faultLog = s.faultLog ∧ (s.settleArea a).overflowCount = s.overflowCount ∧
    (s.settleArea a).recordCounter = s.recordCounter ∧ (s.settleArea a).rstreq = s.rstreq ∧
    (s.settleArea a).alertMask = s.alertMask ∧ (s.settleArea a).timeout = s.timeout ∧
    (s.settleArea a).arbitration = s.arbitration ∧ (s.settleArea a).overflowEscalates = s.overflowEscalates ∧
    (s.settleArea a).frame = s.frame ∧ (s.settleArea a).mode = s.mode ∧ (s.settleArea a).resetRecord = s.resetRecord ∧
    (s.settleArea a).resetHeld = s.resetHeld ∧ (s.settleArea a).straps = s.straps ∧
    (s.settleArea a).memoryReady = s.memoryReady ∧ (s.settleArea a).now = s.now ∧ (s.settleArea a).pending = s.pending ∧
    (∀ x : TagId, (s.settleArea a).tag x = s.tag x) := by
  simp [State.settleArea]

@[simp] theorem State.finishSoftReset_frame (s : State) :
    (s.finishSoftReset).masters = s.masters ∧ (s.finishSoftReset).holdList = s.holdList ∧
    (s.finishSoftReset).nextPlace = s.nextPlace ∧ (s.finishSoftReset).faultLog = s.faultLog ∧
    (s.finishSoftReset).overflowCount = s.overflowCount ∧ (s.finishSoftReset).recordCounter = s.recordCounter ∧
    (s.finishSoftReset).rstreq = s.rstreq ∧ (s.finishSoftReset).frame = s.frame ∧ (s.finishSoftReset).responses = s.responses ∧
    (s.finishSoftReset).resetHeld = s.resetHeld ∧ (s.finishSoftReset).straps = s.straps ∧
    (s.finishSoftReset).memoryReady = s.memoryReady ∧ (s.finishSoftReset).now = s.now ∧
    (s.finishSoftReset).pending = s.pending ∧ (∀ x : MasterId, (s.finishSoftReset).master x = s.master x) ∧
    (∀ x : MasterId, (s.finishSoftReset).context x = s.context x) := by
  (simp [State.finishSoftReset]; and_intros) <;> exact fun _ => rfl

@[simp] theorem State.testSoftReset_frame (s : State) :
    (s.testSoftReset).masters = s.masters ∧ (s.testSoftReset).holdList = s.holdList ∧
    (s.testSoftReset).nextPlace = s.nextPlace ∧ (s.testSoftReset).faultLog = s.faultLog ∧
    (s.testSoftReset).overflowCount = s.overflowCount ∧ (s.testSoftReset).recordCounter = s.recordCounter ∧
    (s.testSoftReset).rstreq = s.rstreq ∧ (s.testSoftReset).frame = s.frame ∧ (s.testSoftReset).responses = s.responses ∧
    (s.testSoftReset).resetHeld = s.resetHeld ∧ (s.testSoftReset).straps = s.straps ∧
    (s.testSoftReset).memoryReady = s.memoryReady ∧ (s.testSoftReset).now = s.now ∧ (s.testSoftReset).pending = s.pending ∧
    (∀ x : MasterId, (s.testSoftReset).master x = s.master x) ∧
    (∀ x : MasterId, (s.testSoftReset).context x = s.context x) := by
  unfold State.testSoftReset; (repeat' split) <;> simp

@[simp] theorem State.conclude_frame (s : State) (k : Nat) :
    (s.conclude k).nextPlace = s.nextPlace ∧ (s.conclude k).faultLog = s.faultLog ∧
    (s.conclude k).overflowCount = s.overflowCount ∧ (s.conclude k).recordCounter = s.recordCounter ∧
    (s.conclude k).rstreq = s.rstreq ∧ (s.conclude k).frame = s.frame ∧ (s.conclude k).resetHeld = s.resetHeld ∧
    (s.conclude k).straps = s.straps ∧ (s.conclude k).now = s.now ∧
    (s.conclude k).pending = s.pending := by
  simp [State.conclude]

@[simp] theorem State.markStale_frame (s : State) :
    (s.markStale).areas = s.areas ∧ (s.markStale).masters = s.masters ∧ (s.markStale).tags = s.tags ∧
    (s.markStale).holdList = s.holdList ∧ (s.markStale).nextPlace = s.nextPlace ∧ (s.markStale).pointer = s.pointer ∧
    (s.markStale).faultLog = s.faultLog ∧ (s.markStale).overflowCount = s.overflowCount ∧
    (s.markStale).recordCounter = s.recordCounter ∧ (s.markStale).rstreq = s.rstreq ∧ (s.markStale).alertMask = s.alertMask ∧
    (s.markStale).timeout = s.timeout ∧ (s.markStale).arbitration = s.arbitration ∧
    (s.markStale).overflowEscalates = s.overflowEscalates ∧ (s.markStale).frame = s.frame ∧ (s.markStale).mode = s.mode ∧
    (s.markStale).resetRecord = s.resetRecord ∧ (s.markStale).responses = s.responses ∧ (s.markStale).resetHeld = s.resetHeld ∧
    (s.markStale).straps = s.straps ∧ (s.markStale).memoryReady = s.memoryReady ∧ (s.markStale).now = s.now ∧
    (s.markStale).pending = s.pending ∧ (∀ x : AreaId, (s.markStale).area x = s.area x) ∧
    (∀ x : MasterId, (s.markStale).master x = s.master x) ∧ (∀ x : TagId, (s.markStale).tag x = s.tag x) ∧
    (∀ x : MasterId, (s.markStale).context x = s.context x) := by
  unfold State.markStale; (repeat' split) <;> simp

@[simp] theorem State.reissueEntry_frame (s : State) (a : AreaId) (e : Entry) :
    (s.reissueEntry a e).masters = s.masters ∧ (s.reissueEntry a e).tags = s.tags ∧ (s.reissueEntry a e).holdList = s.holdList ∧
    (s.reissueEntry a e).nextPlace = s.nextPlace ∧ (s.reissueEntry a e).pointer = s.pointer ∧
    (s.reissueEntry a e).faultLog = s.faultLog ∧ (s.reissueEntry a e).overflowCount = s.overflowCount ∧
    (s.reissueEntry a e).recordCounter = s.recordCounter ∧ (s.reissueEntry a e).rstreq = s.rstreq ∧
    (s.reissueEntry a e).events = s.events ∧ (s.reissueEntry a e).alertMask = s.alertMask ∧
    (s.reissueEntry a e).timeout = s.timeout ∧ (s.reissueEntry a e).arbitration = s.arbitration ∧
    (s.reissueEntry a e).overflowEscalates = s.overflowEscalates ∧ (s.reissueEntry a e).frame = s.frame ∧
    (s.reissueEntry a e).mode = s.mode ∧ (s.reissueEntry a e).resetRecord = s.resetRecord ∧
    (s.reissueEntry a e).responses = s.responses ∧ (s.reissueEntry a e).resetHeld = s.resetHeld ∧
    (s.reissueEntry a e).straps = s.straps ∧ (s.reissueEntry a e).memoryReady = s.memoryReady ∧
    (s.reissueEntry a e).now = s.now ∧ (s.reissueEntry a e).pending = s.pending ∧
    (∀ x : MasterId, (s.reissueEntry a e).master x = s.master x) ∧ (∀ x : TagId, (s.reissueEntry a e).tag x = s.tag x) ∧
    (∀ x : MasterId, (s.reissueEntry a e).context x = s.context x) := by
  simp [State.reissueEntry]

@[simp] theorem State.retireDone_frame (s : State) (a : AreaId) (e : Entry) :
    (s.retireDone a e).tags = s.tags ∧ (s.retireDone a e).holdList = s.holdList ∧ (s.retireDone a e).pointer = s.pointer ∧
    (s.retireDone a e).faultLog = s.faultLog ∧ (s.retireDone a e).overflowCount = s.overflowCount ∧
    (s.retireDone a e).recordCounter = s.recordCounter ∧ (s.retireDone a e).rstreq = s.rstreq ∧
    (s.retireDone a e).alertMask = s.alertMask ∧ (s.retireDone a e).timeout = s.timeout ∧
    (s.retireDone a e).arbitration = s.arbitration ∧ (s.retireDone a e).overflowEscalates = s.overflowEscalates ∧
    (s.retireDone a e).frame = s.frame ∧ (s.retireDone a e).mode = s.mode ∧ (s.retireDone a e).resetRecord = s.resetRecord ∧
    (s.retireDone a e).resetHeld = s.resetHeld ∧ (s.retireDone a e).straps = s.straps ∧
    (s.retireDone a e).memoryReady = s.memoryReady ∧ (s.retireDone a e).now = s.now ∧ (s.retireDone a e).pending = s.pending ∧
    (∀ x : TagId, (s.retireDone a e).tag x = s.tag x) := by
  unfold State.retireDone; dsimp only; split <;> simp

@[simp] theorem State.removeHaltedStrict_frame (s : State) (a : AreaId) (e : Entry) :
    (s.removeHaltedStrict a e).tags = s.tags ∧ (s.removeHaltedStrict a e).holdList = s.holdList ∧
    (s.removeHaltedStrict a e).pointer = s.pointer ∧ (s.removeHaltedStrict a e).faultLog = s.faultLog ∧
    (s.removeHaltedStrict a e).overflowCount = s.overflowCount ∧ (s.removeHaltedStrict a e).recordCounter = s.recordCounter ∧
    (s.removeHaltedStrict a e).rstreq = s.rstreq ∧ (s.removeHaltedStrict a e).alertMask = s.alertMask ∧
    (s.removeHaltedStrict a e).timeout = s.timeout ∧ (s.removeHaltedStrict a e).arbitration = s.arbitration ∧
    (s.removeHaltedStrict a e).overflowEscalates = s.overflowEscalates ∧ (s.removeHaltedStrict a e).frame = s.frame ∧
    (s.removeHaltedStrict a e).mode = s.mode ∧ (s.removeHaltedStrict a e).resetRecord = s.resetRecord ∧
    (s.removeHaltedStrict a e).resetHeld = s.resetHeld ∧ (s.removeHaltedStrict a e).straps = s.straps ∧
    (s.removeHaltedStrict a e).memoryReady = s.memoryReady ∧ (s.removeHaltedStrict a e).now = s.now ∧
    (s.removeHaltedStrict a e).pending = s.pending ∧ (∀ x : TagId, (s.removeHaltedStrict a e).tag x = s.tag x) := by
  simp [State.removeHaltedStrict]

@[simp] theorem State.attemptFailed_frame (s : State) (a : AreaId) (e : Entry) (how : Failure) :
    (s.attemptFailed a e how).tags = s.tags ∧ (s.attemptFailed a e how).pointer = s.pointer ∧
    (s.attemptFailed a e how).alertMask = s.alertMask ∧ (s.attemptFailed a e how).timeout = s.timeout ∧
    (s.attemptFailed a e how).arbitration = s.arbitration ∧ (s.attemptFailed a e how).overflowEscalates = s.overflowEscalates ∧
    (s.attemptFailed a e how).frame = s.frame ∧ (s.attemptFailed a e how).mode = s.mode ∧
    (s.attemptFailed a e how).resetRecord = s.resetRecord ∧ (s.attemptFailed a e how).resetHeld = s.resetHeld ∧
    (s.attemptFailed a e how).straps = s.straps ∧ (s.attemptFailed a e how).memoryReady = s.memoryReady ∧
    (s.attemptFailed a e how).now = s.now ∧ (s.attemptFailed a e how).pending = s.pending ∧
    (∀ x : TagId, (s.attemptFailed a e how).tag x = s.tag x) := by
  unfold State.attemptFailed; (repeat' split) <;> simp

@[simp] theorem State.requestFailed_frame (s : State) (m : MasterId) (how : Failure) :
    (s.requestFailed m how).areas = s.areas ∧ (s.requestFailed m how).tags = s.tags ∧
    (s.requestFailed m how).holdList = s.holdList ∧ (s.requestFailed m how).nextPlace = s.nextPlace ∧
    (s.requestFailed m how).pointer = s.pointer ∧ (s.requestFailed m how).alertMask = s.alertMask ∧
    (s.requestFailed m how).timeout = s.timeout ∧ (s.requestFailed m how).arbitration = s.arbitration ∧
    (s.requestFailed m how).overflowEscalates = s.overflowEscalates ∧ (s.requestFailed m how).frame = s.frame ∧
    (s.requestFailed m how).mode = s.mode ∧ (s.requestFailed m how).resetRecord = s.resetRecord ∧
    (s.requestFailed m how).resetHeld = s.resetHeld ∧ (s.requestFailed m how).straps = s.straps ∧
    (s.requestFailed m how).memoryReady = s.memoryReady ∧ (s.requestFailed m how).now = s.now ∧
    (s.requestFailed m how).pending = s.pending ∧ (∀ x : AreaId, (s.requestFailed m how).area x = s.area x) ∧
    (∀ x : TagId, (s.requestFailed m how).tag x = s.tag x) := by
  unfold State.requestFailed; (repeat' split) <;> simp

@[simp] theorem State.requestDone_frame (s : State) (m : MasterId) (data : LineData) :
    (s.requestDone m data).areas = s.areas ∧ (s.requestDone m data).tags = s.tags ∧
    (s.requestDone m data).holdList = s.holdList ∧ (s.requestDone m data).nextPlace = s.nextPlace ∧
    (s.requestDone m data).pointer = s.pointer ∧ (s.requestDone m data).faultLog = s.faultLog ∧
    (s.requestDone m data).overflowCount = s.overflowCount ∧ (s.requestDone m data).recordCounter = s.recordCounter ∧
    (s.requestDone m data).rstreq = s.rstreq ∧ (s.requestDone m data).events = s.events ∧
    (s.requestDone m data).alertMask = s.alertMask ∧ (s.requestDone m data).timeout = s.timeout ∧
    (s.requestDone m data).arbitration = s.arbitration ∧ (s.requestDone m data).overflowEscalates = s.overflowEscalates ∧
    (s.requestDone m data).frame = s.frame ∧ (s.requestDone m data).mode = s.mode ∧
    (s.requestDone m data).resetRecord = s.resetRecord ∧ (s.requestDone m data).resetHeld = s.resetHeld ∧
    (s.requestDone m data).straps = s.straps ∧ (s.requestDone m data).memoryReady = s.memoryReady ∧
    (s.requestDone m data).now = s.now ∧ (s.requestDone m data).pending = s.pending ∧
    (∀ x : AreaId, (s.requestDone m data).area x = s.area x) ∧ (∀ x : TagId, (s.requestDone m data).tag x = s.tag x) := by
  unfold State.requestDone; (repeat' split) <;> simp

@[simp] theorem State.handResult_frame (s : State) (user : TagUser) (result : MemResult) (data : LineData) :
    (s.handResult user result data).tags = s.tags ∧ (s.handResult user result data).pointer = s.pointer ∧
    (s.handResult user result data).alertMask = s.alertMask ∧ (s.handResult user result data).timeout = s.timeout ∧
    (s.handResult user result data).arbitration = s.arbitration ∧
    (s.handResult user result data).overflowEscalates = s.overflowEscalates ∧ (s.handResult user result data).frame = s.frame ∧
    (s.handResult user result data).mode = s.mode ∧ (s.handResult user result data).resetRecord = s.resetRecord ∧
    (s.handResult user result data).resetHeld = s.resetHeld ∧ (s.handResult user result data).straps = s.straps ∧
    (s.handResult user result data).memoryReady = s.memoryReady ∧ (s.handResult user result data).now = s.now ∧
    (s.handResult user result data).pending = s.pending ∧ (∀ x : TagId, (s.handResult user result data).tag x = s.tag x) := by
  unfold State.handResult; (repeat' split) <;> simp

@[simp] theorem State.convertWaiting_frame (s : State) (m : MasterId) :
    (s.convertWaiting m).nextPlace = s.nextPlace ∧ (s.convertWaiting m).faultLog = s.faultLog ∧
    (s.convertWaiting m).overflowCount = s.overflowCount ∧ (s.convertWaiting m).recordCounter = s.recordCounter ∧
    (s.convertWaiting m).rstreq = s.rstreq ∧ (s.convertWaiting m).alertMask = s.alertMask ∧
    (s.convertWaiting m).timeout = s.timeout ∧ (s.convertWaiting m).arbitration = s.arbitration ∧
    (s.convertWaiting m).overflowEscalates = s.overflowEscalates ∧ (s.convertWaiting m).frame = s.frame ∧
    (s.convertWaiting m).mode = s.mode ∧ (s.convertWaiting m).resetRecord = s.resetRecord ∧
    (s.convertWaiting m).resetHeld = s.resetHeld ∧ (s.convertWaiting m).straps = s.straps ∧
    (s.convertWaiting m).now = s.now ∧
    (s.convertWaiting m).pending = s.pending := by
  unfold State.convertWaiting; (repeat' split) <;> simp

@[simp] theorem State.detachArea_frame (s : State) (a : AreaId) :
    (s.detachArea a).nextPlace = s.nextPlace ∧ (s.detachArea a).faultLog = s.faultLog ∧
    (s.detachArea a).overflowCount = s.overflowCount ∧ (s.detachArea a).recordCounter = s.recordCounter ∧
    (s.detachArea a).rstreq = s.rstreq ∧ (s.detachArea a).alertMask = s.alertMask ∧ (s.detachArea a).timeout = s.timeout ∧
    (s.detachArea a).arbitration = s.arbitration ∧ (s.detachArea a).overflowEscalates = s.overflowEscalates ∧
    (s.detachArea a).frame = s.frame ∧ (s.detachArea a).mode = s.mode ∧ (s.detachArea a).resetRecord = s.resetRecord ∧
    (s.detachArea a).resetHeld = s.resetHeld ∧ (s.detachArea a).straps = s.straps ∧
    (s.detachArea a).now = s.now ∧ (s.detachArea a).pending = s.pending := by
  unfold State.detachArea; dsimp only; split <;> simp

@[simp] theorem State.beginPurge_frame (s : State) (a : AreaId) :
    (s.beginPurge a).tags = s.tags ∧ (s.beginPurge a).holdList = s.holdList ∧ (s.beginPurge a).nextPlace = s.nextPlace ∧
    (s.beginPurge a).pointer = s.pointer ∧ (s.beginPurge a).alertMask = s.alertMask ∧ (s.beginPurge a).timeout = s.timeout ∧
    (s.beginPurge a).arbitration = s.arbitration ∧ (s.beginPurge a).overflowEscalates = s.overflowEscalates ∧
    (s.beginPurge a).frame = s.frame ∧ (s.beginPurge a).mode = s.mode ∧ (s.beginPurge a).resetRecord = s.resetRecord ∧
    (s.beginPurge a).responses = s.responses ∧ (s.beginPurge a).resetHeld = s.resetHeld ∧ (s.beginPurge a).straps = s.straps ∧
    (s.beginPurge a).memoryReady = s.memoryReady ∧ (s.beginPurge a).now = s.now ∧ (s.beginPurge a).pending = s.pending ∧
    (∀ x : TagId, (s.beginPurge a).tag x = s.tag x) ∧ (∀ x : MasterId, (s.beginPurge a).context x = s.context x) := by
  simp [State.beginPurge]

@[simp] theorem State.enlist_frame (s : State) (a : AreaId) :
    (s.enlist a).masters = s.masters ∧ (s.enlist a).tags = s.tags ∧ (s.enlist a).holdList = s.holdList ∧
    (s.enlist a).nextPlace = s.nextPlace ∧ (s.enlist a).pointer = s.pointer ∧ (s.enlist a).faultLog = s.faultLog ∧
    (s.enlist a).overflowCount = s.overflowCount ∧ (s.enlist a).recordCounter = s.recordCounter ∧
    (s.enlist a).rstreq = s.rstreq ∧ (s.enlist a).events = s.events ∧ (s.enlist a).alertMask = s.alertMask ∧
    (s.enlist a).timeout = s.timeout ∧ (s.enlist a).arbitration = s.arbitration ∧
    (s.enlist a).overflowEscalates = s.overflowEscalates ∧ (s.enlist a).frame = s.frame ∧ (s.enlist a).mode = s.mode ∧
    (s.enlist a).resetRecord = s.resetRecord ∧ (s.enlist a).responses = s.responses ∧ (s.enlist a).resetHeld = s.resetHeld ∧
    (s.enlist a).straps = s.straps ∧ (s.enlist a).memoryReady = s.memoryReady ∧ (s.enlist a).now = s.now ∧
    (s.enlist a).pending = s.pending ∧ (∀ x : MasterId, (s.enlist a).master x = s.master x) ∧
    (∀ x : TagId, (s.enlist a).tag x = s.tag x) ∧ (∀ x : MasterId, (s.enlist a).context x = s.context x) := by
  simp [State.enlist]

@[simp] theorem State.shutArea_frame (s : State) (a : AreaId) :
    (s.shutArea a).alertMask = s.alertMask ∧ (s.shutArea a).timeout = s.timeout ∧ (s.shutArea a).arbitration = s.arbitration ∧
    (s.shutArea a).overflowEscalates = s.overflowEscalates ∧ (s.shutArea a).frame = s.frame ∧ (s.shutArea a).mode = s.mode ∧
    (s.shutArea a).resetRecord = s.resetRecord ∧ (s.shutArea a).resetHeld = s.resetHeld ∧ (s.shutArea a).straps = s.straps ∧
    (s.shutArea a).now = s.now ∧ (s.shutArea a).pending = s.pending := by
  unfold State.shutArea; (repeat' split) <;> simp

end Sys2Proof.Machine
end

