-- ==== Sys2Proof/Laws/Views.lean ====
section
/-! SUPPORT. The yes-or-no views of the state, each as the statement about entries, tags and contexts that it stands for. -/

namespace Sys2Proof.Machine

@[simp] theorem mem_allAreas (a : AreaId) : a ∈ allAreas := List.mem_finRange a

@[simp] theorem mem_allMasters (m : MasterId) : m ∈ allMasters := List.mem_finRange m

@[simp] theorem mem_allTags (t : TagId) : t ∈ allTags := List.mem_finRange t

/-! ## Entries -/

theorem Entry.isIssued_iff (e : Entry) : e.isIssued = true ↔ ∃ t, e.state = .issued t := by
  unfold Entry.isIssued; cases e.state <;> simp

theorem Entry.isHeld_iff (e : Entry) : e.isHeld = true ↔ e.state = .held := by
  unfold Entry.isHeld; cases e.state <;> simp

theorem AreaRec.holdsLine_iff (r : AreaRec) (line : Line) : r.holdsLine line = true ↔ ∃ e ∈ r.queue, e.line = line := by
  simp [AreaRec.holdsLine]

theorem AreaRec.holdsLineBefore_iff (r : AreaRec) (line : Line) (mark : Nat) :
    r.holdsLineBefore line mark = true ↔ ∃ e ∈ r.queue, e.line = line ∧ e.place < mark := by
  simp [AreaRec.holdsLineBefore]

theorem AreaRec.holdsBefore_iff (r : AreaRec) (mark : Nat) : r.holdsBefore mark = true ↔ ∃ e ∈ r.queue, e.place < mark := by
  simp [AreaRec.holdsBefore]

theorem AreaRec.purgePending_iff (r : AreaRec) : r.purgePending = true ↔ ∃ mark, r.pendingOp = some (.purge mark) := by
  unfold AreaRec.purgePending; cases r.pendingOp with
  | none => simp
  | some op => cases op <;> simp

/-- The head is an entry of the queue that is not ISSUED, with none but ISSUED entries before it (R55). -/
theorem AreaRec.head_eq_some {r : AreaRec} {h : Entry} (hh : r.head = some h) :
    h.isIssued = false ∧ ∃ before after, r.queue = before ++ h :: after ∧ ∀ e ∈ before, e.isIssued = true := by
  obtain ⟨h1, as, bs, h2, h3⟩ := List.find?_eq_some_iff_append.mp hh
  exact ⟨by simpa using h1, as, bs, h2, fun e he => by simpa using h3 e he⟩

theorem AreaRec.head_mem {r : AreaRec} {h : Entry} (hh : r.head = some h) : h ∈ r.queue := List.mem_of_find?_eq_some hh

theorem AreaRec.entryAt_mem {r : AreaRec} {place : Nat} {e : Entry} (h : r.entryAt place = some e) : e ∈ r.queue ∧ e.place = place :=
  ⟨List.mem_of_find?_eq_some h, by simpa using List.find?_some h⟩

/-! ## Lines -/

theorem State.lineLive_iff (s : State) (line : Line) : s.lineLive line = true ↔ ∃ a, ∃ e ∈ (s.area a).queue, e.line = line := by
  simp [State.lineLive, AreaRec.holdsLine_iff]

theorem State.lineLiveBefore_iff (s : State) (line : Line) (mark : Nat) :
    s.lineLiveBefore line mark = true ↔ ∃ a, ∃ e ∈ (s.area a).queue, e.line = line ∧ e.place < mark := by
  simp [State.lineLiveBefore, AreaRec.holdsLineBefore_iff]

theorem State.lineHalted_iff (s : State) (line : Line) :
    s.lineHalted line = true ↔ ∃ a, (s.area a).state = .halted ∧ ∃ e ∈ (s.area a).queue, e.line = line := by
  simp [State.lineHalted, AreaRec.holdsLine_iff]

theorem TagState.busyOn_iff (v : TagState) (line : Line) : v.busyOn line = true ↔ ∃ tr ∈ v.transaction, tr.request.line = line := by
  cases v <;> simp [TagState.busyOn, TagState.transaction]

theorem State.lineBusy_iff (s : State) (line : Line) :
    s.lineBusy line = true ↔ ∃ t, ∃ tr ∈ (s.tag t).transaction, tr.request.line = line := by
  simp only [State.lineBusy, List.any_eq_true, mem_allTags, true_and, TagState.busyOn_iff]

theorem State.throughUnfinished_iff (s : State) (line : Line) :
    s.throughUnfinished line = true ↔ ∃ m, ∃ w ∈ (s.context m).through, w.line = line := by
  simp only [State.throughUnfinished, List.any_eq_true, mem_allMasters, true_and]
  refine exists_congr fun m => ?_
  cases (s.context m).through <;> simp

theorem State.throughBefore_iff (s : State) (line : Line) (place : Nat) :
    s.throughBefore line place = true ↔ ∃ m, ∃ w ∈ (s.context m).through, w.line = line ∧ w.mark ≤ place := by
  simp only [State.throughBefore, List.any_eq_true, mem_allMasters, true_and]
  refine exists_congr fun m => ?_
  cases (s.context m).through <;> simp

theorem State.throughAfter_iff (s : State) (line : Line) (place : Nat) :
    s.throughAfter line place = true ↔ ∃ m, ∃ w ∈ (s.context m).through, w.line = line ∧ place < w.mark := by
  simp only [State.throughAfter, List.any_eq_true, mem_allMasters, true_and]
  refine exists_congr fun m => ?_
  cases (s.context m).through <;> simp

theorem State.newerElsewhere_iff (s : State) (a : AreaId) (line : Line) (place : Nat) :
    s.newerElsewhere a line place = true ↔ ∃ b, b ≠ a ∧ ∃ e ∈ (s.area b).queue, e.line = line ∧ place < e.place := by
  simp [State.newerElsewhere]

/-! ## Tags -/

theorem TagState.isFree_iff (v : TagState) : v.isFree = true ↔ v = .free := by cases v <;> simp [TagState.isFree]

theorem TagState.isBusy_iff (v : TagState) : v.isBusy = true ↔ ∃ tr, v = .busy tr := by cases v <;> simp [TagState.isBusy]

theorem TagState.transaction_eq_some {v : TagState} {tr : Transaction} : v.transaction = some tr ↔ v = .busy tr := by
  cases v <;> simp [TagState.transaction]

/-- The first member of a rising list that passes a test is the least of those that pass. -/
theorem find?_sorted_eq_some {α : Type} [LinearOrder α] {p : α → Bool} {l : List α} (hl : l.Pairwise (· < ·)) {x : α} :
    l.find? p = some x ↔ x ∈ l ∧ p x = true ∧ ∀ y ∈ l, y < x → p y = false := by
  induction l with
  | nil => simp
  | cons z l ih =>
    rw [List.pairwise_cons] at hl
    obtain ⟨hz, hl⟩ := hl
    rw [List.find?_cons]
    cases hp : p z with
    | true =>
      simp only [Option.some.injEq, List.mem_cons]
      constructor
      · rintro rfl
        refine ⟨.inl rfl, hp, ?_⟩
        rintro y (rfl | hy) hlt
        · exact absurd hlt (lt_irrefl _)
        · exact absurd (hz y hy) (not_lt.mpr hlt.le)
      · rintro ⟨rfl | hx, hpx, hmin⟩
        · rfl
        · have := hmin z (.inl rfl) (hz x hx)
          simp [hp] at this
    | false =>
      rw [ih hl]
      constructor
      · rintro ⟨hx, hpx, hmin⟩
        refine ⟨List.mem_cons_of_mem _ hx, hpx, ?_⟩
        intro y hy hlt
        rcases List.mem_cons.mp hy with rfl | hy
        · exact hp
        · exact hmin y hy hlt
      · rintro ⟨hx, hpx, hmin⟩
        rcases List.mem_cons.mp hx with rfl | hx
        · simp [hp] at hpx
        · exact ⟨hx, hpx, fun y hy => hmin y (List.mem_cons_of_mem _ hy)⟩

/-- The tag a grant takes is FREE, and every lower one is not (R65). -/
theorem State.lowestFree_eq_some {s : State} {t : TagId} :
    s.lowestFree = some t ↔ s.tag t = .free ∧ ∀ u, u < t → s.tag u ≠ .free := by
  unfold State.lowestFree
  rw [find?_sorted_eq_some (by unfold allTags; exact List.pairwise_lt_finRange 8)]
  simp only [mem_allTags, true_and, forall_const, TagState.isFree_iff, Bool.eq_false_iff, ne_eq]

theorem State.lowestFree_eq_none {s : State} : s.lowestFree = none ↔ ∀ t, s.tag t ≠ .free := by
  simp [State.lowestFree, TagState.isFree_iff]

/-! ## The port and the Hold List -/

theorem State.fabricReady_iff (s : State) : s.fabricReady = true ↔ s.responses = [] ∧ s.resetHeld = false := by
  simp [State.fabricReady]

theorem isReady_iff (r : Ready) : isReady r = true ↔ r ≠ .withdrawn := by cases r <;> simp [isReady]

theorem State.canAccept_iff (s : State) : s.canAccept = true ↔ s.memoryReady ≠ .withdrawn ∧ s.resetHeld = false := by
  simp [State.canAccept, isReady_iff]

/-- A line that is withdrawn stays so (R151). -/
theorem afterAcceptance_withdrawn : afterAcceptance .withdrawn = .withdrawn := rfl

/-- With a port that cannot accept, the arbiter changes nothing (R65, R143). -/
theorem State.arbitrate_of_not_canAccept {s : State} (h : s.canAccept = false) : s.arbitrate = s := by
  simp [State.arbitrate, State.grants, State.grantOnce, h]

theorem State.grantable_iff (s : State) (p : HoldPlace) :
    s.grantable p = true ↔ p.released = true ∧ ∃ line, (s.context p.master).heldLine = some line ∧ s.lineBusy line = false := by
  unfold State.grantable
  cases (s.context p.master).heldLine <;> simp

end Sys2Proof.Machine
end

