-- ==== Sys2Proof/Laws/Effects.lean ====
section
/-! SUPPORT. What the shared operations do, each said once: the answers' order, coverage, the arbiter, the halt, the waiters of an area, and
how a management command is taken. -/

namespace Sys2Proof.Machine

theorem bool_eq_false_iff {b : Bool} {p : Prop} (h : b = true ↔ p) : b = false ↔ ¬ p := by
  cases b <;> simp_all

/-! ## Bytes and answers -/

theorem overlay_keepMarked (mask : Mask) (new old : LineData) :
    overlay mask (keepMarked mask new) old = Vector.ofFn fun i => if mask.getLsbD i then new[i] else old[i] := by
  apply Vector.ext
  intro i hi
  simp only [overlay, keepMarked, Vector.getElem_ofFn, Fin.getElem_fin]
  by_cases h : mask.getLsbD i = true
  · rw [if_pos h, if_pos h, if_pos h]
  · rw [if_neg h, if_neg h]

theorem insertAnswer_perm (x : Answer) (l : List Answer) : (insertAnswer x l).Perm (x :: l) := by
  induction l with
  | nil => exact List.Perm.refl _
  | cons y ys ih =>
    simp only [insertAnswer]; split
    · exact List.Perm.refl _
    · exact (List.Perm.cons y ih).trans (List.Perm.swap x y ys)

/-- Ordering answers loses and invents none (R148). -/
theorem sortAnswers_perm (l : List Answer) : (sortAnswers l).Perm l := by
  induction l with
  | nil => exact List.Perm.refl _
  | cons x xs ih => exact (insertAnswer_perm x _).trans (List.Perm.cons x ih)

theorem insertAnswer_pairwise (x : Answer) (l : List Answer) (h : l.Pairwise fun x y => x.master ≤ y.master) :
    (insertAnswer x l).Pairwise fun x y => x.master ≤ y.master := by
  induction l with
  | nil => simp [insertAnswer]
  | cons y ys ih =>
    rw [List.pairwise_cons] at h
    simp only [insertAnswer]; split
    · rename_i hl
      refine List.pairwise_cons.2 ⟨?_, List.pairwise_cons.2 h⟩
      intro z hz
      rcases List.mem_cons.1 hz with rfl | hz
      · exact le_of_lt hl
      · exact le_trans (le_of_lt hl) (h.1 z hz)
    · rename_i hl
      refine List.pairwise_cons.2 ⟨?_, ih h.2⟩
      intro z hz
      rcases List.mem_cons.1 ((insertAnswer_perm x ys).mem_iff.1 hz) with rfl | hz
      · exact not_lt.1 hl
      · exact h.1 z hz

/-- Answers stand in ascending order of master number (R148). -/
theorem sortAnswers_pairwise (l : List Answer) : (sortAnswers l).Pairwise fun x y => x.master ≤ y.master := by
  induction l with
  | nil => exact List.Pairwise.nil
  | cons x xs ih => exact insertAnswer_pairwise x _ ih

/-! ## Reads -/

/-- Full coverage as R42 says it. -/
theorem State.covered_iff (s : State) (line : Line) (mask : Mask) : s.covered line mask = true ↔ s.fullyCovered line mask := by
  unfold State.covered State.fullyCovered
  rw [Bool.and_eq_true, Bool.not_eq_true', bool_eq_false_iff (State.throughUnfinished_iff _ _)]
  refine and_congr ?_ ?_
  · simp only [List.all_eq_true, List.mem_range, Bool.or_eq_true, Bool.not_eq_true', State.entriesFor, List.any_flatMap, List.any_filter,
      List.any_eq_true, mem_allAreas, true_and, Bool.and_eq_true, beq_iff_eq]
    constructor
    · intro h i hi
      rcases h i i.isLt with h' | h'
      · rw [hi] at h'; cases h'
      · exact h'
    · intro h i hi
      cases hm : mask.getLsbD i
      · exact .inl rfl
      · exact .inr (h ⟨i, hi⟩ hm)
  · push Not; rfl

/-- The newest of some entries is one of them, and none is posted later (R43). -/
theorem newestEntry_spec (es : List Entry) : (es = [] ∧ newestEntry es = none) ∨
    ∃ e, newestEntry es = some e ∧ e ∈ es ∧ ∀ x ∈ es, x.place ≤ e.place := by
  have gen : ∀ (es : List Entry) (o : Option Entry), ∃ r, es.foldl laterEntry o = r ∧ (∀ x ∈ o, ∃ e ∈ r, x.place ≤ e.place) ∧
      (∀ x ∈ es, ∃ e ∈ r, x.place ≤ e.place) ∧ (∀ e ∈ r, e ∈ es ∨ e ∈ o) := by
    intro es
    induction es with
    | nil => intro o; exact ⟨o, rfl, fun x hx => ⟨x, hx, le_refl _⟩, by simp, by simp⟩
    | cons y es ih =>
      intro o
      obtain ⟨r, h1, h2, h3, h4⟩ := ih (laterEntry o y)
      refine ⟨r, h1, ?_, ?_, ?_⟩
      · intro x hx
        cases o with
        | none => simp at hx
        | some z =>
          obtain rfl : z = x := by simpa using hx
          simp only [laterEntry] at h2
          split at h2
          · obtain ⟨e, he, hle⟩ := h2 y (by simp)
            exact ⟨e, he, by omega⟩
          · exact h2 z (by simp)
      · intro x hx
        rcases List.mem_cons.mp hx with rfl | hx
        · cases o with
          | none => exact h2 x (by simp [laterEntry])
          | some z =>
            simp only [laterEntry] at h2
            split at h2
            · exact h2 x (by simp)
            · obtain ⟨e, he, hle⟩ := h2 z (by simp)
              exact ⟨e, he, by omega⟩
        · exact h3 x hx
      · intro e he
        rcases h4 e he with h | h
        · exact .inl (List.mem_cons_of_mem _ h)
        · cases o with
          | none => simp [laterEntry] at h; subst h; simp
          | some z =>
            simp only [laterEntry] at h
            split at h
            · simp at h; subst h; simp
            · right; exact h
  obtain ⟨r, h1, h2, h3, h4⟩ := gen es none
  cases es with
  | nil => exact .inl ⟨rfl, rfl⟩
  | cons y es =>
    right
    obtain ⟨e, he, _⟩ := h3 y (by simp)
    refine ⟨e, ?_, ?_, ?_⟩
    · show (y :: es).foldl laterEntry none = some e
      rw [h1]; exact he
    · rcases h4 e he with h | h
      · exact h
      · simp at h
    · intro x hx
      obtain ⟨e', he', hle⟩ := h3 x hx
      cases he.symm.trans he'
      exact hle

/-! ## The arbiter -/

/-- The earliest of several optional entries: none of them lies before it, and it is one of them. -/
theorem fold_earlier (f : AreaId → Option (AreaId × Entry)) (l : List AreaId) (o : Option (AreaId × Entry)) :
    let r := l.foldl (fun best b => earlier best (f b)) o
    (∀ p, (o = some p ∨ ∃ b ∈ l, f b = some p) → ∃ q, r = some q ∧ q.2.place ≤ p.2.place) ∧
    (∀ q, r = some q → o = some q ∨ ∃ b ∈ l, f b = some q) := by
  induction l generalizing o with
  | nil =>
    refine ⟨?_, ?_⟩
    · rintro p (h | ⟨b, hb, _⟩)
      · exact ⟨p, h, le_refl _⟩
      · cases hb
    · intro q hq; exact .inl hq
  | cons b l ih =>
    obtain ⟨h1, h2⟩ := ih (earlier o (f b))
    have e1 : ∀ p, (o = some p ∨ f b = some p) → ∃ q, earlier o (f b) = some q ∧ q.2.place ≤ p.2.place := by
      intro p hp
      unfold earlier
      cases ho : o <;> cases hf : f b
      · simp_all
      · rename_i y; simp_all
      · simp_all
      · rename_i x y
        simp only
        split
        · rcases hp with h | h
          · rw [ho] at h; cases h; exact ⟨_, rfl, by omega⟩
          · rw [hf] at h; cases h; exact ⟨_, rfl, le_refl _⟩
        · rcases hp with h | h
          · rw [ho] at h; cases h; exact ⟨_, rfl, le_refl _⟩
          · rw [hf] at h; cases h; exact ⟨_, rfl, by omega⟩
    have e2 : ∀ q, earlier o (f b) = some q → o = some q ∨ f b = some q := by
      intro q hq
      unfold earlier at hq
      cases ho : o <;> cases hf : f b
      · simp_all
      · simp_all
      · simp_all
      · rw [ho, hf] at hq; simp only at hq
        split at hq
        · right; exact hq
        · left; exact hq
    refine ⟨?_, ?_⟩
    · intro p hp
      have : (o = some p ∨ f b = some p) ∨ ∃ c ∈ l, f c = some p := by
        rcases hp with h | ⟨c, hc, h⟩
        · exact .inl (.inl h)
        · rcases List.mem_cons.mp hc with rfl | hc
          · exact .inl (.inr h)
          · exact .inr ⟨c, hc, h⟩
      rcases this with h | h
      · obtain ⟨q, hq, hle⟩ := e1 p h
        obtain ⟨r, hr, hle'⟩ := h1 q (.inl hq)
        exact ⟨r, hr, by omega⟩
      · exact h1 p (.inr h)
    · intro q hq
      rcases h2 q hq with h | ⟨c, hc, h⟩
      · rcases e2 q h with h | h
        · exact .inl h
        · exact .inr ⟨b, by simp, h⟩
      · exact .inr ⟨c, by simp [hc], h⟩

/-- The oldest entry of an area for a line, posted before a place (R64). -/
theorem State.olderIn_spec (s : State) (hq : s.QueuesOrdered) (b : AreaId) (line : Line) (place : Nat) :
    (∀ p, s.olderIn b line place = some p → p.1 = b ∧ p.2 ∈ (s.area b).queue ∧ p.2.line = line ∧ p.2.place < place) ∧
    (∀ e ∈ (s.area b).queue, e.line = line → e.place < place → ∃ p, s.olderIn b line place = some p ∧ p.2.place ≤ e.place) := by
  unfold State.olderIn
  have hp := (hq b).1
  cases hf : (s.area b).queue.find? (fun e => e.line == line && decide (e.place < place)) with
  | none =>
    simp only [List.find?_eq_none] at hf
    refine ⟨by simp, fun e he hl hlt => ?_⟩
    have := hf e he; simp [hl, hlt] at this
  | some x =>
    obtain ⟨h1, as, bs, h2, h3⟩ := List.find?_eq_some_iff_append.mp hf
    simp only [Bool.and_eq_true, beq_iff_eq, decide_eq_true_eq] at h1
    refine ⟨?_, ?_⟩
    · rintro p hp'
      simp at hp'; subst hp'
      exact ⟨rfl, by rw [h2]; simp, h1.1, h1.2⟩
    · intro e he hl hlt
      refine ⟨_, rfl, ?_⟩
      rw [h2] at he hp
      rcases List.mem_append.mp he with he | he
      · have := h3 e he; simp [hl, hlt] at this
      · rcases List.mem_cons.mp he with rfl | he
        · exact le_refl _
        · have := (List.pairwise_cons.mp (List.pairwise_append.mp hp).2.1).1 e he
          exact this.le

/-- The first area of a class in the area order (R67). -/
theorem State.firstArea_spec (s : State) (cls : AreaId → Bool) :
    (s.firstArea cls = none ↔ ∀ a, cls a = false) ∧
    (∀ c, s.firstArea cls = some c → ∃ a, c = .area a ∧ cls a = true ∧ ∀ b, cls b = true →
      match s.arbitration with
      | .fixed => a ≤ b
      | .roundRobin => a - s.pointer ≤ b - s.pointer) := by
  unfold State.firstArea
  have hmem : ∀ b, b ∈ s.areaOrder := by
    intro b
    unfold State.areaOrder
    cases s.arbitration
    · simp only [List.mem_append, List.mem_filter, mem_allAreas, true_and, decide_eq_true_eq]
      exact le_or_gt _ _
    · exact mem_allAreas b
  refine ⟨?_, ?_⟩
  · simp only [Option.map_eq_none_iff, List.find?_eq_none]
    constructor
    · intro h a; simpa using h a (hmem a)
    · intro h a _; simp [h a]
  · intro c hc
    simp only [Option.map_eq_some_iff] at hc
    obtain ⟨a, ha, rfl⟩ := hc
    refine ⟨a, rfl, List.find?_some ha, ?_⟩
    intro b hb
    cases harb : s.arbitration with
    | fixed =>
      simp only
      unfold State.areaOrder at ha
      rw [harb] at ha
      simp only at ha
      obtain ⟨_, _, h3⟩ := (find?_sorted_eq_some (by unfold allAreas; exact List.pairwise_lt_finRange 12)).mp ha
      by_contra hlt
      have := h3 b (mem_allAreas b) (lt_of_not_ge hlt)
      rw [hb] at this; cases this
    | roundRobin =>
      simp only
      have key : s.areaOrder.Pairwise (fun x y => x - s.pointer < y - s.pointer) := by
        unfold State.areaOrder
        rw [harb]
        simp only
        generalize s.pointer = p
        revert p; decide +kernel
      obtain ⟨h1, as, bs, h2, h3⟩ := List.find?_eq_some_iff_append.mp ha
      have hbm := hmem b
      rw [h2] at hbm key
      rcases List.mem_append.mp hbm with hbm | hbm
      · have := h3 b hbm; simp [hb] at this
      · rcases List.mem_cons.mp hbm with rfl | hbm
        · exact le_refl _
        · exact ((List.pairwise_cons.mp (List.pairwise_append.mp key).2.1).1 b hbm).le

theorem nextArea_eq (a : AreaId) : nextArea a = if a = 11 then 0 else a + 1 := by
  revert a; decide

theorem State.grantOnce_of {s : State} {t : TagId} {c : Claimant} (h1 : s.canAccept = true) (h2 : s.lowestFree = some t) (h3 : s.chosen = some c) :
    s.grantOnce = some (s.issue c t) := by simp [State.grantOnce, h1, h2, h3]

/-- What one grant can change (R65, R69, R76). -/
theorem State.issue_spec (s : State) (c : Claimant) (t : TagId) :
    let u := s.issue c t
    (∀ a, u.area a = { s.area a with queue := (u.area a).queue } ∧
      (u.area a).queue.map Entry.lasting = (s.area a).queue.map Entry.lasting) ∧
    (∀ m, u.master m = { s.master m with context := u.context m } ∧
      (u.context m = s.context m ∨ (s.context m).heldLine ≠ none ∧ (u.context m).tag ≠ none)) ∧
    (∀ x, x ≠ t → u.tag x = s.tag x) ∧ u.holdList.Sublist s.holdList := by
  cases c with
  | area a =>
    simp only [State.issue, State.issueHead]
    cases hh : (s.area a).head with
    | none => simp [State.context]
    | some h =>
      refine ⟨fun b => ?_, fun m => ⟨rfl, .inl rfl⟩, fun x hx => ?_, List.Sublist.refl _⟩
      · simp only [State.movePointer_area]
        by_cases hb : b = a
        · subst hb
          simp only [State.updateEntry_area, if_true, State.occupy_area, List.map_map, true_and]
          refine List.map_congr_left fun e _ => ?_
          simp only [Function.comp]
          split <;> rfl
        · simp [hb]
      · simp [hx]
  | master m =>
    simp only [State.issue, State.issueMaster]
    cases hc : s.context m with
    | throughWait w st =>
      cases st with
      | inHold =>
        refine ⟨fun a => by simp, fun n => ?_, fun x hx => by simp [hx], by simp⟩
        by_cases hn : n = m
        · subst hn
          simp [hc, Context.heldLine, Context.tag]
        · simp [hn, State.context]
      | issued t' => simp [State.context]
    | readWait w st =>
      cases st with
      | inHold =>
        refine ⟨fun a => by simp, fun n => ?_, fun x hx => by simp [hx], by simp⟩
        by_cases hn : n = m
        · subst hn
          simp [hc, Context.heldLine, Context.tag]
        · simp [hn, State.context]
      | issued t' => simp [State.context]
    | _ => simp [State.context]

theorem State.issue_places (s : State) (c : Claimant) (t : TagId) (b : AreaId) :
    ((s.issue c t).area b).queue.map Entry.place = (s.area b).queue.map Entry.place := by
  cases c with
  | area a =>
    simp only [State.issue, State.issueHead]
    split
    · rfl
    · simp; split
      · rename_i h; subst h; simp [Function.comp]; intro e _; split <;> rfl
      · rfl
  | master m =>
    simp only [State.issue, State.issueMaster]
    split <;> simp

/-- Grants keep every entry and its place. -/
theorem State.arbitrate_places (s : State) (b : AreaId) : ((s.arbitrate).area b).queue.map Entry.place = (s.area b).queue.map Entry.place :=
  State.arbitrate_induct (P := fun u => (u.area b).queue.map Entry.place = (s.area b).queue.map Entry.place) s rfl
    fun u c t h _ _ _ => (State.issue_places u c t b).trans h

/-- Grants take places of the Hold List away and add none (R47). -/
theorem State.arbitrate_holdList (s : State) : s.arbitrate.holdList.Sublist s.holdList :=
  State.arbitrate_induct (P := fun u => u.holdList.Sublist s.holdList) s (List.Sublist.refl _)
    fun u c t h _ _ _ => (State.issue_spec u c t).2.2.2.trans h

/-- A count over the tags when one tag changes. -/
theorem countP_allTags_update (f g : TagId → Bool) (t : TagId) (h : ∀ u, u ≠ t → g u = f u) :
    allTags.countP g + (if f t then 1 else 0) = allTags.countP f + (if g t then 1 else 0) := by
  have key : ∀ l : List TagId, l.Nodup → (t ∈ l → l.countP g + (if f t then 1 else 0) = l.countP f + (if g t then 1 else 0)) ∧ (t ∉ l → l.countP g = l.countP f) := by
    intro l
    induction l with
    | nil => simp
    | cons x l ih =>
      intro hn
      rw [List.nodup_cons] at hn
      obtain ⟨i1, i2⟩ := ih hn.2
      simp only [List.countP_cons, List.mem_cons]
      refine ⟨fun hm => ?_, fun hm => ?_⟩
      · by_cases hx : t = x
        · subst hx
          have := i2 hn.1
          omega
        · have := i1 (by tauto)
          rw [h x (Ne.symm hx)]; omega
      · have := i2 (by tauto)
        rw [h x (by rintro rfl; tauto), this]
  exact (key allTags (by unfold allTags; exact List.nodup_finRange 8)).1 (mem_allTags t)

/-- The number of FREE tags. -/
def State.freeCount (s : State) : Nat := allTags.countP fun t => (s.tag t).isFree

/-- The chosen claimant is offered: an area's head, or a request of the Hold List (R65, R66). -/
theorem State.chosen_offered {s : State} {c : Claimant} (h : s.chosen = some c) :
    (∃ a, c = .area a ∧ s.offered a = true) ∨ ∃ p ∈ s.holdList, c = .master p.master ∧ s.grantable p = true := by
  have first : ∀ (p : AreaId → Bool), (∀ a, p a = true → s.offered a = true) → s.firstArea p = some c → ∃ a, c = .area a ∧ s.offered a = true := by
    intro p hp hf
    obtain ⟨a, ha, hpa, _⟩ := (State.firstArea_spec s p).2 c hf
    exact ⟨a, ha, hp a hpa⟩
  unfold State.chosen at h
  rcases Option.or_eq_some_iff.mp h with h | ⟨_, h⟩
  · unfold State.guardClaim at h
    split at h
    · cases h
    · exact .inl (first _ (by simp) h)
  · rcases Option.or_eq_some_iff.mp h with h | ⟨_, h⟩
    · obtain ⟨p, hp, rfl⟩ := Option.map_eq_some_iff.mp h
      exact .inr ⟨p, List.mem_of_find?_eq_some hp, rfl, List.find?_some hp⟩
    · rcases Option.or_eq_some_iff.mp h with h | ⟨_, h⟩
      · exact .inl (first _ (by simp) h)
      · exact .inl (first _ (by simp) h)

/-- The issue of the chosen claimant makes its tag BUSY and changes no other tag. -/
theorem State.issue_tags {s : State} {c : Claimant} {t : TagId} (hc : s.chosen = some c) :
    ∃ tr : Transaction, ∀ u, (s.issue c t).tag u = if u = t then .busy tr else s.tag u := by
  rcases State.chosen_offered hc with ⟨a, rfl, ho⟩ | ⟨p, _, rfl, hg⟩
  · cases hh : (s.area a).head with
    | none => simp [State.offered, hh] at ho
    | some h => exact ⟨_, fun u => by simp [State.issue, State.issueHead, hh]; rfl⟩
  · obtain ⟨_, line, hline, _⟩ := (State.grantable_iff s p).mp hg
    simp only [State.issue, State.issueMaster]
    cases hx : s.context p.master with
    | throughWait w st =>
      cases st with
      | inHold => exact ⟨_, fun u => by simp; rfl⟩
      | issued t' => rw [hx] at hline; simp [Context.heldLine] at hline
    | readWait w st =>
      cases st with
      | inHold => exact ⟨_, fun u => by simp; rfl⟩
      | issued t' => rw [hx] at hline; simp [Context.heldLine] at hline
    | _ => rw [hx] at hline; simp [Context.heldLine] at hline

/-- As many grants as tags are FREE leave nothing to grant. -/
theorem State.grants_done (n : Nat) (s : State) (h : s.freeCount ≤ n) : (State.grants n s).ArbiterDone := by
  induction n generalizing s with
  | zero =>
    intro _; left
    rw [State.lowestFree_eq_none]
    intro t ht
    have ht : s.tag t = .free := ht
    have : 0 < s.freeCount := List.countP_pos_iff.mpr ⟨t, mem_allTags t, by rw [ht]; rfl⟩
    omega
  | succ n ih =>
    unfold State.grants
    cases hg : s.grantOnce with
    | none =>
      simp only
      intro hca
      simp only [State.grantOnce, hca, if_true] at hg
      cases h1 : s.lowestFree with
      | none => exact .inl rfl
      | some t =>
        cases h2 : s.chosen with
        | none => exact .inr rfl
        | some c => simp [h1, h2] at hg
    | some u =>
      obtain ⟨c, t, ha, ht, hc, rfl⟩ := State.grantOnce_eq_some hg
      refine ih _ ?_
      obtain ⟨tr, h1⟩ := State.issue_tags (t := t) hc
      have key := countP_allTags_update (fun u => (s.tag u).isFree) (fun u => ((s.issue c t).tag u).isFree) t (fun u hu => by simp [h1, hu])
      have e1 : (s.tag t).isFree = true := by simp [(State.lowestFree_eq_some.mp ht).1, TagState.isFree]
      have e2 : ((s.issue c t).tag t).isFree = false := by simp [h1, TagState.isFree]
      rw [e1, e2] at key
      simp at key
      unfold State.freeCount at *
      omega

/-- After the arbiter has acted it has nothing left to do (R65). -/
theorem State.arbitrate_done (s : State) : s.arbitrate.ArbiterDone := by
  refine State.grants_done 8 s ?_
  refine (List.countP_le_length).trans ?_
  simp [allTags]

/-- An arbiter that has nothing to do changes nothing. -/
theorem State.arbitrate_of_done {s : State} (h : s.ArbiterDone) : s.arbitrate = s := by
  have : s.grantOnce = none := by
    unfold State.grantOnce
    split
    · rename_i ha
      rcases h ha with k | k <;> simp [k]
    · rfl
  simp [State.arbitrate, State.grants, this]

/-- A tag that a grant has made BUSY is timed from now, with the timeout in force (R77). -/
theorem State.arbitrate_timers (s : State) : ∀ x tr, s.arbitrate.tag x = .busy tr →
    s.tag x = .busy tr ∨ tr.started = s.now ∧ tr.timeout = s.timeout := by
  refine (State.arbitrate_induct (P := fun u => (u.now = s.now ∧ u.timeout = s.timeout) ∧ ∀ x tr, u.tag x = .busy tr →
    s.tag x = .busy tr ∨ tr.started = s.now ∧ tr.timeout = s.timeout) s ⟨⟨rfl, rfl⟩, fun _ _ h => .inl h⟩ ?_).2
  rintro u c t ⟨⟨hn, ht⟩, h⟩ _ _ _
  refine ⟨⟨by simpa using hn, by simpa using ht⟩, fun x tr hx => ?_⟩
  by_cases hxt : x = t
  · subst hxt
    cases c with
    | area a =>
      simp only [State.issue, State.issueHead] at hx
      split at hx
      · exact h x tr hx
      · simp at hx; subst hx; exact .inr ⟨hn, ht⟩
    | master m =>
      simp only [State.issue, State.issueMaster] at hx
      split at hx
      · simp at hx; subst hx; exact .inr ⟨hn, ht⟩
      · simp at hx; subst hx; exact .inr ⟨hn, ht⟩
      all_goals exact h x tr hx
  · rw [(State.issue_spec u c t).2.2.1 x hxt] at hx
    exact h x tr hx

/-! ## The halt -/

/-- What a halt makes of the halted area's record (R108, R109). -/
def AreaRec.haltedRec (r : AreaRec) : AreaRec :=
  let q := r.queue.filter fun e => !e.strictUnissued
  match r.pendingOp with
  | some (.drain _) => { r with state := .halted, pendingOp := none, lastOutcome := .cutShort, queue := q }
  | _ => { r with state := .halted, queue := q }

theorem State.cutDrain_area (s : State) (a b : AreaId) : (s.cutDrain a).area b =
    if b = a then (match (s.area a).pendingOp with
      | some (.drain _) => { s.area a with pendingOp := none, lastOutcome := .cutShort }
      | _ => s.area a) else s.area b := by
  unfold State.cutDrain
  split <;> rename_i h <;> simp [h]
  · rintro rfl; rfl
  · rintro rfl; rfl
  · rintro rfl; rfl

theorem State.removeStrict_areas (s : State) (a : AreaId) :
    (s.removeStrict a).areas = (s.setQueue a ((s.area a).queue.filter fun e => !e.strictUnissued)).areas := by
  unfold State.removeStrict
  refine foldl_keeps (P := fun u : State => u.areas = (s.setQueue a ((s.area a).queue.filter fun e => !e.strictUnissued)).areas) _ _ _ rfl ?_
  intro u e _ h
  simpa using h

theorem State.removeStrict_area (s : State) (a b : AreaId) :
    (s.removeStrict a).area b = if b = a then { s.area a with queue := (s.area a).queue.filter fun e => !e.strictUnissued } else s.area b := by
  rw [State.area, State.removeStrict_areas, ← State.area, State.setQueue_area]

/-- A halt changes one area's record and no other (R108). -/
theorem State.haltArea_area (s : State) (a b : AreaId) : (s.haltArea a).area b = if b = a then AreaRec.haltedRec (s.area a) else s.area b := by
  unfold State.haltArea
  simp only [State.refuseHolds_frame, State.haltMaster_frame, State.removeStrict_area, State.cutDrain_area, State.raise_area, State.setArea_area]
  by_cases h : b = a
  · subst h
    simp only [if_true, AreaRec.haltedRec]
    cases (s.area b).pendingOp with
    | none => rfl
    | some o => cases o <;> rfl
  · simp [h]

theorem foldl_answer_context (l : List HoldPlace) (u : State) (n : MasterId) :
    (l.foldl (fun s p => s.answer p.master (.error .halted)) u).context n =
      if n ∈ l.map HoldPlace.master then .idle else u.context n := by
  induction l generalizing u with
  | nil => simp
  | cons p l ih =>
    simp only [List.foldl_cons, ih, List.map_cons, List.mem_cons, State.answer_context]
    by_cases h : n ∈ l.map HoldPlace.master <;> by_cases h' : n = p.master <;> simp [h, h']

theorem State.refuseHolds_context (s : State) (a : AreaId) (n : MasterId) :
    (s.refuseHolds a).context n = if n ∈ (s.holdList.filter (s.waitsOn a)).map HoldPlace.master then .idle else s.context n := by
  unfold State.refuseHolds
  rw [foldl_answer_context]; rfl

theorem State.refuseHolds_holdList (s : State) (a : AreaId) :
    (s.refuseHolds a).holdList = s.holdList.filter fun p => !s.waitsOn a p := by
  unfold State.refuseHolds
  refine foldl_keeps (P := fun u : State => u.holdList = s.holdList.filter fun p => !s.waitsOn a p) _ _ _ rfl ?_
  intro u p _ h; simpa using h

theorem State.answerStrict_context_or (s : State) (a : AreaId) (place : Nat) (body : AnswerBody) (n : MasterId) :
    (s.answerStrict a place body).context n = s.context n ∨
      ((s.area a).master = some n ∧ s.context n = .strictWait place ∧ (s.answerStrict a place body).context n = .idle) := by
  unfold State.answerStrict
  split
  · exact .inl rfl
  · split
    · rename_i m hm hc
      by_cases h : n = m
      · subst h; right; exact ⟨hm, hc, by simp⟩
      · left; simp [h]
    · exact .inl rfl

theorem State.removeStrict_context_or (s : State) (a : AreaId) (n : MasterId) :
    (s.removeStrict a).context n = s.context n ∨
      ((s.area a).master = some n ∧ (∃ p, s.context n = .strictWait p) ∧ (s.removeStrict a).context n = .idle) := by
  unfold State.removeStrict
  refine (foldl_keeps (P := fun u : State => (∀ b, (u.area b).master = (s.area b).master) ∧ (u.context n = s.context n ∨ ((s.area a).master = some n ∧ (∃ p, s.context n = .strictWait p) ∧ u.context n = .idle))) _ _ _ ?_ ?_).2
  · refine ⟨?_, .inl (by simp)⟩
    intro b; simp; split <;> simp_all
  · rintro u e _ ⟨h0, h⟩
    refine ⟨by simpa using h0, ?_⟩
    rcases State.answerStrict_context_or u a e.place (.error .halted) n with g | ⟨g1, g2, g3⟩
    · rwa [g]
    · right
      rcases h with h | ⟨h1, h2, h3⟩
      · exact ⟨by rw [← h0]; exact g1, ⟨_, h ▸ g2⟩, g3⟩
      · rw [h3] at g2; cases g2

open Classical in
theorem State.haltMaster_context_eq (s : State) (a : AreaId) (n : MasterId) :
    (s.haltMaster a).context n =
      if (s.area a).master = some n ∧ ((∃ w, s.context n = .postingWait w) ∨ ∃ k, s.context n = .syncWait k) then .idle
      else s.context n := by
  unfold State.haltMaster
  split
  · rename_i h; simp [h]
  · rename_i m h
    by_cases hn : n = m
    · subst hn
      simp only [h, true_and]
      split <;> rename_i hc
      · simp [hc]
      · simp [hc, State.answerHaltTerms, State.answerDeferred]; split <;> simp
      all_goals simp [hc]
    · have : ¬ (some m = some n) := by simpa [eq_comm] using hn
      simp only [h, this, false_and, if_false]
      split
      · simp [hn]
      · simp only [State.answerHaltTerms, State.answerDeferred]; split <;> simp [hn]
      all_goals rfl

/-! ## The waiters of an area -/

/-- A posting wait decided again posts at most one entry, at the next place (R9, R27). -/
theorem State.retryPosting_places (s : State) (a b : AreaId) : ∀ x ∈ ((s.retryPosting a).area b).queue, x.place = s.nextPlace ∨ ∃ y ∈ (s.area b).queue, y.place = x.place := by
  unfold State.retryPosting
  split
  · intro x hx; exact .inr ⟨x, hx, rfl⟩
  · split
    · split
      · unfold State.decideJoined
        split
        · rename_i m w _ _ _ e ht
          intro x hx
          simp only [State.answer_area, State.mergeTail_area] at hx
          split at hx
          · rename_i hb; subst hb
            rcases List.mem_append.mp hx with hx | hx
            · exact .inr ⟨x, List.mem_of_mem_dropLast hx, rfl⟩
            · simp at hx; subst hx
              refine .inr ⟨e, ?_, rfl⟩
              unfold State.mergeTarget at ht
              split at ht
              · cases ht
              · rename_i hl
                split at ht
                · cases ht; exact List.mem_of_getLast? hl
                · cases ht
          · exact .inr ⟨x, hx, rfl⟩
        · split
          · intro x hx
            have : ∀ w y, y ∈ ((s.postEntry a w).area b).queue → y.place = s.nextPlace ∨ ∃ z ∈ (s.area b).queue, z.place = y.place := by
              intro w y hy
              simp only [State.postEntry_area] at hy
              split at hy
              · rename_i hb; subst hb
                rcases List.mem_append.mp hy with hy | hy
                · exact .inr ⟨y, hy, rfl⟩
                · simp at hy; subst hy; exact .inl rfl
              · exact .inr ⟨y, hy, rfl⟩
            split at hx <;> (simp only [State.setContext_area, State.answer_area] at hx; exact this _ x hx)
          · intro x hx; simp at hx; exact .inr ⟨x, hx, rfl⟩
      · intro x hx; exact .inr ⟨x, hx, rfl⟩
    all_goals exact fun x hx => .inr ⟨x, hx, rfl⟩

theorem State.endDrain_queue (s : State) (a b : AreaId) : ((s.endDrain a).area b).queue = (s.area b).queue := by
  unfold State.endDrain; split
  · split
    · rfl
    · simp; split <;> simp_all
  all_goals rfl

theorem State.beginDetach_queue (s : State) (a b : AreaId) (o : LongOp) : ((s.beginDetach a o).area b).queue = (s.area b).queue := by
  unfold State.beginDetach; dsimp only; split <;> (simp; split <;> simp_all)

theorem State.finishPurge_queue (s : State) (a b : AreaId) : ((s.finishPurge a).area b).queue = (s.area b).queue := by
  unfold State.finishPurge; dsimp only; (repeat' split) <;> (simp [State.beginDetach_queue]; try (split <;> simp_all))

theorem State.endPurge_queue (s : State) (a b : AreaId) : ((s.endPurge a).area b).queue = (s.area b).queue := by
  unfold State.endPurge; split
  · split
    · rfl
    · exact State.finishPurge_queue s a b
  all_goals rfl

theorem AreaRec.detached_queue (r : AreaRec) : r.detached.queue = r.queue := by
  unfold AreaRec.detached; dsimp only; split <;> rfl

theorem State.endDetach_queue (s : State) (a b : AreaId) : ((s.endDetach a).area b).queue = (s.area b).queue := by
  unfold State.endDetach; dsimp only; split
  · split <;> (simp; split <;> simp_all [AreaRec.detached_queue])
  · rfl

theorem State.testSoftReset_queue (s : State) (b : AreaId) : ∀ x ∈ (s.testSoftReset.area b).queue, x ∈ (s.area b).queue := by
  unfold State.testSoftReset; split
  · intro x hx; simp [State.finishSoftReset, State.area, AreaRec.afterSoftReset, AreaRec.reset, State.raise] at hx
  · exact fun x hx => hx

/-- The end of a change posts nothing. -/
theorem State.conclude_places (s : State) (n : Nat) (b : AreaId) : ∀ x ∈ ((s.conclude n).area b).queue, ∃ y ∈ (s.area b).queue, y.place = x.place := by
  intro x hx
  unfold State.conclude at hx
  have : x.place ∈ ((((s.releaseHolds.orderAnswers n).testSoftReset).arbitrate).area b).queue.map Entry.place := List.mem_map_of_mem hx
  rw [State.arbitrate_places] at this
  obtain ⟨y, hy, h⟩ := List.mem_map.mp this
  have := State.testSoftReset_queue _ b y hy
  simp at this
  exact ⟨y, this, h⟩

/-- The news of a retirement posts at most the waiting write (R12, R27). -/
theorem State.settleArea_places (s : State) (a b : AreaId) : ∀ x ∈ ((s.settleArea a).area b).queue, x.place = s.nextPlace ∨ ∃ y ∈ (s.area b).queue, y.place = x.place := by
  intro x hx
  unfold State.settleArea at hx
  rw [State.endDetach_queue, State.endPurge_queue, State.endDrain_queue] at hx
  simp at hx
  exact State.retryPosting_places s a b x hx

theorem State.testSoftReset_of_running {s : State} (h : s.mode = .running) : s.testSoftReset = s := by
  simp [State.testSoftReset, h]

theorem State.endDetach_of_not {s : State} {a : AreaId} (h : (s.area a).state ≠ .detaching ∨ (s.area a).queue ≠ []) : s.endDetach a = s := by
  unfold State.endDetach; rw [if_neg]; rintro ⟨h1, h2⟩; rcases h with h | h <;> contradiction

theorem State.freeStale_tags (s : State) (h : ∀ t, (s.tag t).isBusy = false) : s.freeStale.tags = Vector.replicate 8 .free := by
  apply Vector.ext
  intro i hi
  have := h ⟨i, hi⟩
  simp [State.freeStale]
  simp [State.tag] at this
  cases ht : s.tags[i] <;> simp_all [TagState.isBusy, TagState.recovered]

theorem State.beginDetach_area (s : State) (a b : AreaId) (o : LongOp) : (s.beginDetach a o).area b =
    if b = a then { s.area a with state := .detaching, pendingOp := some o } else s.area b := by
  unfold State.beginDetach; dsimp only; split <;> simp

theorem State.beginDetach_master (s : State) (a : AreaId) (o : LongOp) (m : MasterId) : (s.beginDetach a o).master m =
    if (s.area a).master = some m then { s.master m with joinedArea := none, detachingArea := some a } else s.master m := by
  unfold State.beginDetach; dsimp only; split
  · rename_i h; simp [h]
  · rename_i n h; simp [h, eq_comm]; split <;> simp_all

theorem State.endDetach_master (s : State) (a : AreaId) (m : MasterId) : (s.endDetach a).master m = s.master m ∨
    ((s.area a).state = .detaching ∧ (s.area a).queue = [] ∧ (s.area a).master = some m ∧ (s.endDetach a).master m = { s.master m with detachingArea := none }) := by
  unfold State.endDetach
  split
  · rename_i hd
    dsimp only
    split
    · left; simp
    · rename_i n h; simp; by_cases hm : m = n <;> simp_all
  · exact .inl rfl

theorem State.endDetach_area_of_ne (s : State) (a b : AreaId) (h : b ≠ a) : (s.endDetach a).area b = s.area b := by
  unfold State.endDetach; dsimp only; split
  · split <;> simp [h]
  · rfl

theorem State.dropEntries_area_of_ne (s : State) (a b : AreaId) (c : FaultCause) (d : Entry → Bool) (h : b ≠ a) : (s.dropEntries a c d).area b = s.area b := by
  unfold State.dropEntries; split
  · simp [h]
  · rfl

theorem State.decideJoined_area_of_ne (s : State) (m : MasterId) (a b : AreaId) (w : WriteReq) (h : b ≠ a) : (s.decideJoined m a w).area b = s.area b := by
  unfold State.decideJoined; split
  · simp [h]
  · split
    · split <;> simp [h]
    · simp

theorem State.retryPosting_area_of_ne (s : State) (a b : AreaId) (h : b ≠ a) : (s.retryPosting a).area b = s.area b := by
  unfold State.retryPosting; split
  · rfl
  · split
    · split
      · exact State.decideJoined_area_of_ne _ _ _ _ _ h
      · rfl
    all_goals rfl

theorem State.endDrain_area_of_ne (s : State) (a b : AreaId) (h : b ≠ a) : (s.endDrain a).area b = s.area b := by
  unfold State.endDrain; split
  · split
    · rfl
    · simp [h]
  all_goals rfl

theorem State.endPurge_area_of_ne (s : State) (a b : AreaId) (h : b ≠ a) : (s.endPurge a).area b = s.area b := by
  unfold State.endPurge; split
  · split
    · rfl
    · unfold State.finishPurge; dsimp only
      split
      · split
        · rw [State.beginDetach_area]; simp [h]
        · simp [h]
      · simp [h]
  all_goals rfl

/-- The news of a retirement touches no other area's record. -/
theorem State.settleArea_area_of_ne (s : State) (a b : AreaId) (h : b ≠ a) : (s.settleArea a).area b = s.area b := by
  unfold State.settleArea
  rw [State.endDetach_area_of_ne _ _ _ h, State.endPurge_area_of_ne _ _ _ h, State.endDrain_area_of_ne _ _ _ h]
  simp [State.retryPosting_area_of_ne _ _ _ h]

theorem State.answerSync_eq (s : State) (m : MasterId) : s.answerSync m = s.syncAnswered m .okay := by
  unfold State.answerSync State.syncAnswered; dsimp only
  split
  · rfl
  · simp [State.answerDeferred, State.clearAccount]

/-- No two entries of a queue share a place (R9). -/
theorem State.QueuesOrdered.eq_of_place {s : State} (hs : s.QueuesOrdered) {a : AreaId} {x y : Entry} (hx : x ∈ (s.area a).queue) (hy : y ∈ (s.area a).queue) (h : x.place = y.place) : x = y := by
  have hn : ((s.area a).queue.map Entry.place).Nodup := by
    rw [List.Nodup, List.pairwise_map]
    exact (hs a).1.imp fun h => by omega
  exact List.inj_on_of_nodup_map hn hx hy h

/-! ## Management commands -/

/-- A command that is taken (R117, R118). -/
theorem State.command_eq {s : State} (h : s.takesCommand) (n : Nat) (k : State → Taken) : s.command n k = (k s).close n := by
  simp [State.command, State.unlessReset, h.1, h.2]

theorem State.runningCommand_eq {s : State} (h : s.takesInRunning) (n : Nat) (k : State → Taken) : s.runningCommand n k = (k s).close n := by
  simp [State.runningCommand, State.command_eq h.1, h.2]

/-- A command that SHUTDOWN mode answers BUSY (R134). -/
theorem State.runningCommand_busy {s : State} (h : s.takesCommand) (hm : s.mode = .shutdown) (n : Nat) (k : State → Taken) :
    s.runningCommand n k = s.taken (n + 1) .busy [] := by
  simp [State.runningCommand, State.command_eq h, hm, Taken.close, State.refuse, zeroBytes]

theorem areaOf_of {b : Byte} {a : AreaId} (h : b.toNat = a.val) : areaOf b = some a := by
  have : b.toNat < 12 := h ▸ a.isLt
  simp [areaOf, h]

theorem areaOf_eq_none {b : Byte} (h : 12 ≤ b.toNat) : areaOf b = none := by
  simp [areaOf]; omega

theorem masterOf_of {b : Byte} {m : MasterId} (h : b.toNat = m.val) : masterOf b = some m := by
  have : b.toNat < 16 := h ▸ m.isLt
  simp [masterOf, h]

theorem masterOf_eq_none {b : Byte} (h : 16 ≤ b.toNat) : masterOf b = none := by
  simp [masterOf]; omega

/-- The revision counts from 01H (layout 11.3, log 19). -/
theorem revision_ne_zero : Config.revision ≠ 0 := by
  have h := Config.earlierRevisions.isLt
  intro hr
  have := congrArg BitVec.toNat hr
  simp [Config.revision] at this
  omega

end Sys2Proof.Machine
end

