-- ==== Sys2Proof/Laws/Time.lean ====
section
/-! SUPPORT. What the passing of time does: which timers it lets expire, what it leaves as it is, and where the clock stands. -/

namespace Sys2Proof.Machine

/-! ## A tag that is not FREE -/

/-- A grant takes a FREE tag and no other. -/
theorem State.arbitrate_tag_of_not_free (s : State) (t : TagId) (h : s.tag t ≠ .free) : s.arbitrate.tag t = s.tag t :=
  State.arbitrate_induct (P := fun u => u.tag t = s.tag t) s rfl fun u c x hu _ hx hc => by
    rw [(State.issue_spec u c x).2.2.1 t ?_, hu]
    rintro rfl
    exact h (hu ▸ (State.lowestFree_eq_some.mp hx).1)

/-- The soft reset ends only with no BUSY tag (R141). -/
theorem State.testSoftReset_tag_of_busy {s : State} {t : TagId} {tr : Transaction} (h : s.tag t = .busy tr) :
    s.testSoftReset.tag t = .busy tr := by
  unfold State.testSoftReset
  split
  · rename_i hd
    have := hd.2
    simp only [State.softResetDone, Bool.and_eq_true, List.all_eq_true, mem_allTags, forall_const] at this
    have := this.2 t
    simp [h, TagState.isBusy] at this
  · exact h

/-- The end of a change keeps a BUSY tag. -/
theorem State.conclude_tag_of_busy {s : State} {t : TagId} {tr : Transaction} (h : s.tag t = .busy tr) (n : Nat) :
    (s.conclude n).tag t = .busy tr := by
  have hb : ((s.releaseHolds.orderAnswers n).testSoftReset).tag t = .busy tr := State.testSoftReset_tag_of_busy (by simpa using h)
  unfold State.conclude
  rw [State.arbitrate_tag_of_not_free _ _ (by rw [hb]; simp), hb]

theorem State.conclude_mode_of_running {s : State} (h : s.mode = .running) (n : Nat) : (s.conclude n).mode = .running := by
  unfold State.conclude
  rw [State.testSoftReset_of_running (by simpa using h)]
  simpa using h

/-! ## Expiries -/

theorem State.expireTag_now (s : State) (t : TagId) (tr : Transaction) : (s.expireTag t tr).now = s.now := by
  simp [State.expireTag]

theorem State.expireTag_resetHeld (s : State) (t : TagId) (tr : Transaction) : (s.expireTag t tr).resetHeld = s.resetHeld := by
  simp [State.expireTag]

/-- The expiry of one tag keeps every other BUSY tag. -/
theorem State.expireTag_tag_of_ne (s : State) (t x : TagId) (tr y : Transaction) (hx : x ≠ t) (h : s.tag x = .busy y) :
    (s.expireTag t tr).tag x = .busy y := by
  unfold State.expireTag
  exact State.conclude_tag_of_busy (by simp [hx, h]) _

/-- A timer that has not run out does not expire (R77). -/
theorem State.expireIfDue_of_not_due {s : State} {t : TagId} (h : ∀ tr, s.tag t = .busy tr → s.now < tr.deadline) : s.expireIfDue t = s := by
  unfold State.expireIfDue
  split
  · rename_i tr ht
    exact if_neg (Nat.not_le.mpr (h tr ht))
  all_goals rfl

theorem State.expireIfDue_now (s : State) (t : TagId) : (s.expireIfDue t).now = s.now := by
  unfold State.expireIfDue; split
  · split
    · exact State.expireTag_now _ _ _
    · rfl
  all_goals rfl

theorem State.expireIfDue_resetHeld (s : State) (t : TagId) : (s.expireIfDue t).resetHeld = s.resetHeld := by
  unfold State.expireIfDue; split
  · split
    · exact State.expireTag_resetHeld _ _ _
    · rfl
  all_goals rfl

/-- The tag keeps a transaction whose timer has not run out. -/
theorem State.expireIfDue_tag {s : State} {x : TagId} {y : Transaction} (t : TagId) (h : s.tag x = .busy y) (hd : s.now < y.deadline) :
    (s.expireIfDue t).tag x = .busy y := by
  by_cases hx : x = t
  · subst hx
    rw [State.expireIfDue_of_not_due fun tr ht => by rw [h] at ht; cases ht; exact hd]; exact h
  · unfold State.expireIfDue; split
    · split
      · exact State.expireTag_tag_of_ne _ _ _ _ _ hx h
      · exact h
    all_goals exact h

theorem State.expireDue_now (s : State) : s.expireDue.now = s.now :=
  foldl_keeps (P := fun u : State => u.now = s.now) _ _ _ rfl fun u t _ h => (u.expireIfDue_now t).trans h

theorem State.expireDue_resetHeld (s : State) : s.expireDue.resetHeld = s.resetHeld :=
  foldl_keeps (P := fun u : State => u.resetHeld = s.resetHeld) _ _ _ rfl fun u t _ h => (u.expireIfDue_resetHeld t).trans h

/-- With no timer run out nothing expires. -/
theorem State.expireDue_of_none_due {s : State} (h : ∀ t tr, s.tag t = .busy tr → s.now < tr.deadline) : s.expireDue = s :=
  foldl_keeps (P := fun u : State => u = s) _ _ _ rfl fun u t _ hu => by
    subst hu; exact State.expireIfDue_of_not_due (h t)

theorem State.expireDue_tag {s : State} {x : TagId} {y : Transaction} (h : s.tag x = .busy y) (hd : s.now < y.deadline) :
    s.expireDue.tag x = .busy y :=
  (foldl_keeps (P := fun u : State => u.now = s.now ∧ u.tag x = .busy y) _ _ _ ⟨rfl, h⟩ fun u t _ hu =>
    ⟨(u.expireIfDue_now t).trans hu.1, State.expireIfDue_tag t hu.2 (hu.1 ▸ hd)⟩).2

/-- In RUNNING mode the expiry of one tag keeps every STALE one. -/
theorem State.expireTag_tag_of_stale {s : State} {t x : TagId} {tr : Transaction} {b : Bool} (hm : s.mode = .running) (hx : x ≠ t)
    (h : s.tag x = .stale b) : (s.expireTag t tr).tag x = .stale b := by
  unfold State.expireTag State.conclude
  rw [State.testSoftReset_of_running (by simpa using hm), State.arbitrate_tag_of_not_free _ _ (by simp [hx, h])]
  simp [hx, h]

/-! ## What the passing of time keeps -/

/-- What the expiry of a timer that has run out keeps, all such expiries keep. -/
theorem State.expireDue_induct {P : State → Prop} (s : State) (h0 : P s)
    (hx : ∀ u t tr, P u → u.tag t = .busy tr → tr.deadline ≤ u.now → P (u.expireTag t tr)) : P s.expireDue :=
  foldl_keeps (P := P) _ _ _ h0 fun u t _ hu => by
    unfold State.expireIfDue
    split
    · rename_i tr ht
      split
      · rename_i hd; exact hx u t tr hu ht hd
      · exact hu
    all_goals exact hu

theorem State.moveOn_induct {P : State → Prop} (s : State) (h0 : P s)
    (hx : ∀ u t tr, P u → u.tag t = .busy tr → tr.deadline ≤ u.now → P (u.expireTag t tr))
    (hn : ∀ u : State, P u → P { u with now := u.now + 1 }) : P s.moveOn := by
  have h := hn _ (State.expireDue_induct s h0 hx)
  rw [s.expireDue_now] at h
  exact h

/-- What an expiry, the move of the clock and the arbiter keep, time keeps. -/
theorem State.tick_induct {P : State → Prop} (s : State) (h0 : P s)
    (hx : ∀ u t tr, P u → u.tag t = .busy tr → tr.deadline ≤ u.now → P (u.expireTag t tr))
    (hn : ∀ u : State, P u → P { u with now := u.now + 1 }) (ha : ∀ u : State, P u → P u.arbitrate) : P s.tick := by
  unfold State.tick
  split
  · exact hn s h0
  · exact ha _ (State.expireDue_induct _ (State.moveOn_induct s h0 hx hn) hx)

theorem State.pass_induct {P : State → Prop} (n : Nat) (s : State) (h0 : P s)
    (hx : ∀ u t tr, P u → u.tag t = .busy tr → tr.deadline ≤ u.now → P (u.expireTag t tr))
    (hn : ∀ u : State, P u → P { u with now := u.now + 1 }) (ha : ∀ u : State, P u → P u.arbitrate) : P (s.pass n) := by
  induction n generalizing s with
  | zero => exact h0
  | succ n ih => exact ih s.tick (State.tick_induct s h0 hx hn ha)

theorem State.reach_induct {P : State → Prop} (s : State) (time : Nat) (h0 : P s)
    (hx : ∀ u t tr, P u → u.tag t = .busy tr → tr.deadline ≤ u.now → P (u.expireTag t tr))
    (hn : ∀ u : State, P u → P { u with now := u.now + 1 }) (ha : ∀ u : State, P u → P u.arbitrate) : P (s.reach time) := by
  unfold State.reach
  split
  · exact h0
  · exact State.moveOn_induct _ (State.pass_induct _ s h0 hx hn ha) hx hn

theorem State.expireTag_mode_of_running {s : State} (t : TagId) (tr : Transaction) (h : s.mode = .running) :
    (s.expireTag t tr).mode = .running := by
  unfold State.expireTag
  exact State.conclude_mode_of_running (by simpa using h) _

/-- The mode stays RUNNING while time passes. -/
theorem State.reach_mode_of_running {s : State} (time : Nat) (h : s.mode = .running) : (s.reach time).mode = .running :=
  State.reach_induct (P := fun u => u.mode = .running) s time h (fun u t tr hu _ _ => u.expireTag_mode_of_running t tr hu) (fun _ h => h)
    fun u hu => by simpa using hu

theorem State.tick_mode_of_running {s : State} (h : s.mode = .running) : s.tick.mode = .running :=
  State.tick_induct (P := fun u => u.mode = .running) s h (fun u t tr hu _ _ => u.expireTag_mode_of_running t tr hu) (fun _ h => h)
    fun u hu => by simpa using hu

/-- Outside a soft reset the tag that expires is STALE afterwards (R84). -/
theorem State.expireTag_tag_of_running {s : State} (t : TagId) (tr : Transaction) (h : s.mode = .running) :
    (s.expireTag t tr).tag t = .stale tr.user.isEntry := by
  unfold State.expireTag State.conclude
  rw [State.testSoftReset_of_running (by simpa using h), State.arbitrate_tag_of_not_free _ _ (by simp)]
  simp

/-- A tag whose timer has run out is STALE once all such timers have expired, in RUNNING mode (R84). -/
theorem State.expireDue_of_due {s : State} {t : TagId} {tr : Transaction} (h : s.tag t = .busy tr) (hd : tr.deadline ≤ s.now)
    (hm : s.mode = .running) : s.expireDue.tag t = .stale tr.user.isEntry := by
  have key : ∀ (l : List TagId) (u : State), u.now = s.now → u.mode = .running →
      (t ∈ l ∧ u.tag t = .busy tr ∨ u.tag t = .stale tr.user.isEntry) →
      (l.foldl State.expireIfDue u).tag t = .stale tr.user.isEntry := by
    intro l
    induction l with
    | nil =>
      rintro u _ _ (⟨h, _⟩ | h)
      · cases h
      · exact h
    | cons x l ih =>
      intro u hn hm hu
      have hm' : (u.expireIfDue x).mode = .running := by
        unfold State.expireIfDue; split
        · split
          · exact u.expireTag_mode_of_running _ _ hm
          · exact hm
        all_goals exact hm
      refine ih _ ((u.expireIfDue_now x).trans hn) hm' ?_
      by_cases hx : t = x
      · subst hx
        right
        rcases hu with ⟨_, hu⟩ | hu
        · unfold State.expireIfDue
          rw [hu]
          simp only [hn, hd, if_true]
          exact State.expireTag_tag_of_running _ _ hm
        · unfold State.expireIfDue
          rw [hu]
          exact hu
      · rcases hu with ⟨hx', hu⟩ | hu
        · left
          refine ⟨by simpa [hx] using hx', ?_⟩
          unfold State.expireIfDue; split
          · split
            · exact State.expireTag_tag_of_ne _ _ _ _ _ hx hu
            · exact hu
          all_goals exact hu
        · right
          unfold State.expireIfDue; split
          · split
            · exact State.expireTag_tag_of_stale hm hx hu
            · exact hu
          all_goals exact hu
  exact key allTags s rfl hm (.inl ⟨mem_allTags t, h⟩)

/-! ## The clock -/

theorem State.moveOn_now (s : State) : s.moveOn.now = s.now + 1 := rfl

theorem State.moveOn_resetHeld (s : State) : s.moveOn.resetHeld = s.resetHeld := by
  have h := s.expireDue_resetHeld
  unfold State.moveOn
  generalize s.expireDue = u at h ⊢
  exact h

theorem State.moveOn_tag {s : State} {x : TagId} {y : Transaction} (h : s.tag x = .busy y) (hd : s.now < y.deadline) :
    s.moveOn.tag x = .busy y := by
  have h := State.expireDue_tag h hd
  unfold State.moveOn
  generalize s.expireDue = u at h ⊢
  exact h

theorem State.moveOn_of_none_due {s : State} (h : ∀ t tr, s.tag t = .busy tr → s.now < tr.deadline) : s.moveOn = { s with now := s.now + 1 } := by
  unfold State.moveOn; rw [State.expireDue_of_none_due h]

theorem State.tick_now (s : State) : s.tick.now = s.now + 1 := by
  unfold State.tick; split
  · rfl
  · simp [State.expireDue_now, State.moveOn_now]

theorem State.tick_resetHeld (s : State) : s.tick.resetHeld = s.resetHeld := by
  unfold State.tick; split
  · rfl
  · simp [State.expireDue_resetHeld, State.moveOn_resetHeld]

/-- A microsecond at whose end the timer has not run out keeps the tag. -/
theorem State.tick_tag {s : State} {x : TagId} {y : Transaction} (h : s.tag x = .busy y) (hd : s.now + 1 < y.deadline) :
    s.tick.tag x = .busy y := by
  unfold State.tick; split
  · exact h
  · have hm : s.moveOn.expireDue.tag x = .busy y :=
      State.expireDue_tag (State.moveOn_tag h (by omega)) (by rw [State.moveOn_now]; exact hd)
    rw [State.arbitrate_tag_of_not_free _ _ (by rw [hm]; simp), hm]

/-- A microsecond in which no timer runs out lets the arbiter act and does nothing else. -/
theorem State.tick_of_none_due {s : State} (hr : s.resetHeld = false) (h : ∀ t tr, s.tag t = .busy tr → s.now + 1 < tr.deadline) :
    s.tick = ({ s with now := s.now + 1 } : State).arbitrate := by
  have h' : ∀ t tr, s.tag t = .busy tr → s.now < tr.deadline := fun t tr ht => by have := h t tr ht; omega
  unfold State.tick
  rw [if_neg (by simp [hr]), State.moveOn_of_none_due h', State.expireDue_of_none_due h]

theorem State.pass_now (n : Nat) (s : State) : (s.pass n).now = s.now + n := by
  induction n generalizing s with
  | zero => rfl
  | succ n ih => show (s.tick.pass n).now = _; rw [ih, State.tick_now]; omega

theorem State.pass_resetHeld (n : Nat) (s : State) : (s.pass n).resetHeld = s.resetHeld := by
  induction n generalizing s with
  | zero => rfl
  | succ n ih => show (s.tick.pass n).resetHeld = _; rw [ih, State.tick_resetHeld]

theorem State.pass_tag {x : TagId} {y : Transaction} (n : Nat) {s : State} (h : s.tag x = .busy y) (hd : s.now + n < y.deadline) :
    (s.pass n).tag x = .busy y := by
  induction n generalizing s with
  | zero => exact h
  | succ n ih => exact ih (s := s.tick) (State.tick_tag h (by omega)) (by rw [State.tick_now]; omega)

/-- Time in which no timer runs out and no linger time ends only moves the clock. -/
theorem State.pass_of_quiet (n : Nat) {s : State} (hr : s.resetHeld = false) (h : ∀ t tr, s.tag t = .busy tr → s.now + n < tr.deadline)
    (hl : ∀ k, s.now < k → k ≤ s.now + n → ({ s with now := k } : State).arbitrate = { s with now := k }) :
    s.pass n = { s with now := s.now + n } := by
  induction n generalizing s with
  | zero => rfl
  | succ n ih =>
    show s.tick.pass n = _
    rw [State.tick_of_none_due hr fun t tr ht => by have := h t tr ht; omega, hl _ (by omega) (by omega),
      ih (s := { s with now := s.now + 1 }) hr (fun t tr ht => by have := h t tr ht; dsimp only; omega)
        (fun k h1 h2 => hl k (by dsimp only at h1; omega) (by dsimp only at h2; omega))]
    simp [Nat.add_assoc, Nat.add_comm 1 n]

theorem State.reach_now (s : State) (time : Nat) : (s.reach time).now = max s.now time := by
  unfold State.reach; split
  · omega
  · rw [State.moveOn_now, State.pass_now]; omega

theorem State.reach_resetHeld (s : State) (time : Nat) : (s.reach time).resetHeld = s.resetHeld := by
  unfold State.reach; split
  · rfl
  · rw [State.moveOn_resetHeld, State.pass_resetHeld]

/-- Until its timer runs out a tag keeps its transaction. -/
theorem State.reach_tag {s : State} {x : TagId} {y : Transaction} (h : s.tag x = .busy y) {time : Nat} (hd : time ≤ y.deadline) :
    (s.reach time).tag x = .busy y := by
  unfold State.reach; split
  · exact h
  · exact State.moveOn_tag (State.pass_tag _ h (by omega)) (by rw [State.pass_now]; omega)

/-- Time in which no timer runs out and no linger time ends only moves the clock. -/
theorem State.reach_of_quiet {s : State} {time : Nat} (hr : s.resetHeld = false)
    (h : ∀ t tr, s.tag t = .busy tr → s.now < time → time ≤ tr.deadline)
    (hl : ∀ k, s.now < k → k < time → ({ s with now := k } : State).arbitrate = { s with now := k }) :
    s.reach time = { s with now := max s.now time } := by
  unfold State.reach; split
  · rename_i hle; rw [Nat.max_eq_left hle]
  · rename_i hlt
    have hq := State.pass_of_quiet (time - s.now - 1) hr (fun t tr ht => by have := h t tr ht (by omega); omega)
      (fun k h1 h2 => hl k h1 (by omega))
    rw [hq, State.moveOn_of_none_due fun t tr ht => by have := h t tr ht (by omega); dsimp only; omega]
    simp only
    congr 1; omega

end Sys2Proof.Machine
end

