-- ==== Sys2Proof/Laws/Moves.lean ====
section
/-! SUPPORT. What a step can do, said once: every step is a chain of changes, each a move of the list below, with what is known when it is
made, or the turn of a BUSY tag with the handling of its user. What each change keeps, every step keeps (Changes.keeps with
step_changes); the handling is itself a chain of moves (State.handResult_moves). -/

namespace Sys2Proof.Machine

/-- The context waits for nothing of the memory port: it is neither in the Hold List nor issued. -/
def Context.local : Context → Prop
  | .idle | .postingWait _ | .strictWait _ | .syncWait _ => True
  | .throughWait _ _ | .readWait _ _ => False

/-- A master may take up a new wait: its request is being taken, or its write leaves the posting wait. -/
def State.fresh (s : State) (m : MasterId) : Prop :=
  (s.context m = .idle ∧ s.responses = []) ∨ ∃ w, s.context m = .postingWait w

/-- One move of the bridge. X is the user whose tag has just turned, while it is handled, and none outside a handling: only it gives up
its wait for a tag, and nothing is issued meanwhile. -/
inductive Move (X : Option TagUser) : State → State → Prop
  /-- The frame, the input pins, the clock and the queue. -/
  | world (s : State) (fr : Frame) (mr : Ready) (n : Nat) (st : BitVec 2) (q : List Instr) :
      Move X s { s with frame := fr, memoryReady := mr, now := n, straps := st, pending := q }
  | releaseReset (s : State) (st : BitVec 2) : Move X s { s with straps := st, resetHeld := false }
  /-- A grant with its issue. -/
  | issue (s : State) (c : Claimant) (t : TagId) (hX : X = none) (ha : s.canAccept = true) (ht : s.lowestFree = some t)
      (hc : s.chosen = some c) :
      Move X s (s.issue c t)
  /-- An answer that leaves every context as it is, to a request just taken. -/
  | send (s : State) (m : MasterId) (body : AnswerBody) (h : s.responses = []) : Move X s (s.send m body)
  /-- The answer of a request in progress that is not in the Hold List, or of one just taken. -/
  | answer (s : State) (m : MasterId) (body : AnswerBody)
      (h : (s.context m ≠ .idle ∧ (s.context m).heldLine = none) ∨ (s.context m = .idle ∧ s.responses = []))
      (hX : (s.context m).tag ≠ none → X = some (.master m)) :
      Move X s (s.answer m body)
  | deliver (s : State) : Move X s { s with responses := s.responses.tail }
  | order (s : State) (k : Nat) : Move X s (s.orderAnswers k)
  /-- A STALE tag is freed by its late completion. -/
  | late (s : State) (t : TagId) (b : Bool) (h : s.tag t = .stale b) : Move X s (s.setTag t .free)
  | freeStale (s : State) : Move X s s.freeStale
  | flags (s : State) (w : EventWord) : Move X s { s with events := w }
  | record (s : State) (r : FaultRecord) : Move X s (s.makeRecord r)
  | escalate (s : State) : Move X s s.escalation
  | popRecord (s : State) (fr : Frame) : Move X s { s with faultLog := s.faultLog.tail, frame := fr }
  | charge (s : State) (m : MasterId) (k : Nat) (line : Line) (cause : FaultCause) (hk : 0 < k) : Move X s (s.charge m k line cause)
  | clearAccount (s : State) (m : MasterId) : Move X s (s.clearAccount m)
  | clearMaster (s : State) (m : MasterId) :
      Move X s (s.setMaster m { s.master m with pendingCount := 0, firstFault := none, throughSeen := false })
  | through (s : State) (m : MasterId) : Move X s (s.setMaster m { s.master m with throughSeen := true })
  /-- Entries leave a queue; the others stay in order. -/
  | retire (s : State) (a : AreaId) (keep : Entry → Bool)
      (hX : ∀ e ∈ (s.area a).queue, keep e = false → e.isIssued = true → X = some (.entry a e.place)) :
      Move X s (s.setQueue a ((s.area a).queue.filter keep))
  | reissue (s : State) (a : AreaId) (place : Nat) (hX : X = some (.entry a place)) :
      Move X s (s.updateEntry a place fun x => { x with state := .reissue })
  | merge (s : State) (a : AreaId) (q : List Entry) (e : Entry) (w : WriteReq) (h : (s.area a).queue = q ++ [e]) (hh : e.state = .held) :
      Move X s (s.setQueue a (q ++ [e.merged w]))
  | post (s : State) (m : MasterId) (a : AreaId) (w : WriteReq) (hm : (s.master m).joinedArea = some a ∨ (s.area a).state = .joined)
      (hh : (s.area a).state ≠ .halted) (h : (s.area a).occupancy < (s.area a).size) : Move X s (s.postEntry a w)
  /-- A master takes up a wait outside the memory port. -/
  | wait (s : State) (m : MasterId) (c : Context) (h : s.fresh m) (hc : c.local) (hi : c ≠ .idle) : Move X s (s.setContext m c)
  /-- A master's request is issued, enters the Hold List, or is answered RETRY. -/
  | enter (s : State) (m : MasterId) (c : Context) (hX : X = none) (h : s.fresh m) (hc : c.heldLine ≠ none) :
      Move X s ((s.setContext m c).enterHold m)
  | markReleased (s : State) (f : HoldPlace → Bool) :
      Move X s { s with holdList := s.holdList.map fun p => if f p then { p with released := true } else p }
  | refuseHolds (s : State) (a : AreaId) : Move X s (s.refuseHolds a)
  | halt (s : State) (a : AreaId) (h : (s.area a).state = .joined) : Move X s (s.setArea a { s.area a with state := .halted })
  | resume (s : State) (a : AreaId) (h : (s.area a).state = .halted) : Move X s (s.setArea a { s.area a with state := .joined })
  | operation (s : State) (a : AreaId) (o : Option LongOp) (out : LastOutcome) :
      Move X s (s.setArea a { s.area a with pendingOp := o, lastOutcome := out })
  | beginDetach (s : State) (a : AreaId) (o : LongOp) (h : (s.area a).state = .joined ∨ (s.area a).state = .halted) :
      Move X s (s.beginDetach a o)
  | endDetach (s : State) (a : AreaId) : Move X s (s.endDetach a)
  | join (s : State) (a : AreaId) (m : MasterId) (ha : (s.area a).state = .free) (hz : (s.area a).size ≠ 0)
      (hj : (s.master m).joinedArea = none) (hd : (s.master m).detachingArea = none) : Move X s (s.joinMaster a m)
  | settings (s : State) (a : AreaId) (p : FaultPolicy) (e : Escalate) (retry linger highWater : Nat) (merge : Bool) (hr : retry ≤ 3)
      (hl : linger ≤ 255) (hw : highWater ≤ Config.maxAreaSize) :
      Move X s (s.setArea a
        { s.area a with policy := p, escalate := e, retry := retry, linger := linger, highWater := highWater, merge := merge })
  | sizes (s : State) (v : Vector Byte 12) (hf : ∀ a, (s.area a).state = .free ∧ (s.area a).queue = []) (hv : poolFits v = true) :
      Move X s (s.setSizes v)
  | globals (s : State) (timeout : Nat) (arb : Arbitration) (ovf : Bool) (mask : EventWord) (h1 : 1 ≤ timeout) (h2 : timeout ≤ 4095) :
      Move X s { s with timeout := timeout, arbitration := arb, overflowEscalates := ovf, alertMask := mask }
  | enlist (s : State) (a : AreaId) : Move X s (s.enlist a)
  | shutdown (s : State) : Move X s { s with mode := .shutdown }
  | finishSoftReset (s : State) (hX : X = none) (hm : s.mode = .shutdown) (h : s.softResetDone = true) : Move X s s.finishSoftReset
  | clearResetRecord (s : State) (r : ResetRecord) : Move X s { s with resetRecord := r }
  | pinReset (s : State) : Move X s s.pinReset
  | powerOn (s : State) (straps : BitVec 2) (low : Bool) :
      Move X s { State.reset with straps := straps, resetHeld := low, memoryReady := s.memoryReady, pending := s.pending }

/-- A chain of moves. -/
def Moves (X : Option TagUser) : State → State → Prop := Relation.ReflTransGen (Move X)

namespace Moves

variable {X : Option TagUser}

theorem refl (s : State) : Moves X s s := Relation.ReflTransGen.refl

theorem one {s t : State} (h : Move X s t) : Moves X s t := Relation.ReflTransGen.single h

theorem trans {s t u : State} (h : Moves X s t) (k : Moves X t u) : Moves X s u := Relation.ReflTransGen.trans h k

theorem then' {s t u : State} (h : Moves X s t) (k : Move X t u) : Moves X s u := Relation.ReflTransGen.tail h k

/-- What every move keeps, a chain of moves keeps. -/
theorem keeps {P : State → Prop} (hP : ∀ s t, Move X s t → P s → P t) {s t : State} (h : Moves X s t) (hs : P s) : P t := by
  induction h with
  | refl => exact hs
  | tail _ hm ih => exact hP _ _ hm ih

/-- A fold whose every step is a chain of moves. -/
theorem fold {α : Type} (f : State → α → State) (l : List α) (s : State) (h : ∀ u x, x ∈ l → Moves X u (f u x)) :
    Moves X s (l.foldl f s) := by
  induction l generalizing s with
  | nil => exact refl s
  | cons x l ih => exact (h s x (by simp)).trans (ih _ fun u y hy => h u y (by simp [hy]))

end Moves

variable {X : Option TagUser}

/-! ## The shared operations -/

theorem State.raise_moves (s : State) (e : Event) : Moves X s (s.raise e) := Moves.one (.flags s _)

theorem State.arbitrate_moves (s : State) : Moves none s s.arbitrate :=
  State.arbitrate_induct (P := Moves none s) s (Moves.refl s) fun u c t h ha ht hc => h.then' (.issue u c t rfl ha ht hc)

/-- The context may be answered: its request is in progress, neither in the Hold List nor issued, or is just taken. -/
def State.answerable (s : State) (m : MasterId) : Prop :=
  ((s.context m ≠ .idle ∧ (s.context m).heldLine = none) ∨ (s.context m = .idle ∧ s.responses = [])) ∧ (s.context m).tag = none

theorem State.answerable.move {s : State} {m : MasterId} (h : s.answerable m) (body : AnswerBody) : Move X s (s.answer m body) :=
  .answer s m body h.1 fun ht => absurd h.2 ht

theorem State.fresh.answerable {s : State} {m : MasterId} (h : s.fresh m) : s.answerable m := by
  rcases h with h | ⟨w, h⟩
  · exact ⟨.inr h, by simp [h.1, Context.tag]⟩
  · exact ⟨.inl ⟨by simp [h], by simp [h, Context.heldLine]⟩, by simp [h, Context.tag]⟩

theorem State.answerSync_moves {s : State} {m : MasterId} (h : s.answerable m) : Moves X s (s.answerSync m) := by
  unfold State.answerSync
  split
  · exact Moves.one (h.move _)
  · exact (Moves.one (h.move _)).then' (.clearAccount _ m)

theorem State.answerHaltTerms_moves {s : State} {m : MasterId} (h : s.answerable m) : Moves X s (s.answerHaltTerms m) := by
  unfold State.answerHaltTerms
  split
  · exact Moves.one (h.move _)
  · exact (Moves.one (h.move _)).then' (.clearAccount _ m)

theorem State.removeEntry_moves (s : State) (a : AreaId) (place : Nat) :
    Moves (some (.entry a place)) s (s.removeEntry a place) :=
  Moves.one (.retire s a (fun e => e.place != place) fun e _ h _ => by simp at h; rw [h])

theorem State.dropEntries_moves (s : State) (a : AreaId) (cause : FaultCause) (drop : Entry → Bool)
    (hd : ∀ e, drop e = true → e.isIssued = false) : Moves X s (s.dropEntries a cause drop) := by
  unfold State.dropEntries
  split
  · exact ((Moves.one (.retire s a (fun x => !drop x) fun e _ h hi => by simp at h; simp [hd e h] at hi)).then' (.record _ _)).then' (.charge _ _ _ _ _ (Nat.succ_pos _))
  · exact Moves.refl s

theorem State.answerStrict_moves (s : State) (a : AreaId) (place : Nat) (body : AnswerBody) : Moves X s (s.answerStrict a place body) := by
  unfold State.answerStrict
  split
  · exact Moves.refl s
  · split
    · rename_i hc
      exact Moves.one (.answer s _ _ (.inl (by simp [hc, Context.heldLine])) (by simp [hc, Context.tag]))
    · exact Moves.refl s

theorem State.cutDrain_moves (s : State) (a : AreaId) : Moves X s (s.cutDrain a) := by
  unfold State.cutDrain
  split
  · exact (Moves.one (.operation s a _ _)).trans (State.raise_moves _ _)
  all_goals exact Moves.refl s

theorem State.removeStrict_moves (s : State) (a : AreaId) : Moves X s (s.removeStrict a) :=
  (Moves.one (.retire s a (fun e => !e.strictUnissued) fun e _ h hi => by simp [Entry.strictUnissued, hi] at h)).trans
    (Moves.fold _ _ _ fun u e _ => u.answerStrict_moves a e.place _)

theorem State.haltMaster_moves (s : State) (a : AreaId) : Moves X s (s.haltMaster a) := by
  unfold State.haltMaster
  split
  · exact Moves.refl s
  · split
    · rename_i hc
      exact Moves.one (.answer s _ _ (.inl (by simp [hc, Context.heldLine])) (by simp [hc, Context.tag]))
    · rename_i hc
      exact State.answerHaltTerms_moves ⟨.inl (by simp [hc, Context.heldLine]), by simp [hc, Context.tag]⟩
    all_goals exact Moves.refl s

theorem State.haltArea_moves {s : State} {a : AreaId} (h : (s.area a).state = .joined) : Moves X s (s.haltArea a) := by
  refine (((((Moves.one (.halt s a h)).trans (State.raise_moves _ _)).trans (State.cutDrain_moves _ _)).trans
    (State.removeStrict_moves _ _)).trans (State.haltMaster_moves _ _)).then' (.refuseHolds _ a)

theorem State.applyPolicy_moves (s : State) (a : AreaId) : Moves X s (s.applyPolicy a) := by
  unfold State.applyPolicy
  split
  · exact Moves.refl s
  · split
    · rename_i h; exact State.haltArea_moves h
    · exact Moves.refl s
  · exact s.dropEntries_moves a _ _ fun e h => by simp only [Entry.droppable, Bool.and_eq_true, Bool.not_eq_true'] at h; exact h.2

theorem State.recordFailure_moves (s : State) (a : AreaId) (m : MasterId) (e : Entry) (how : Failure) :
    Moves (some (.entry a e.place)) s (s.recordFailure a m e how) := by
  have h : Moves (some (.entry a e.place)) s ((s.makeRecord ((s.area a).failureRecord a m e how.cause)).removeEntry a e.place) :=
    (Moves.one (.record s _)).trans (State.removeEntry_moves _ a e.place)
  unfold State.recordFailure
  refine h.trans ?_
  split
  · exact State.answerStrict_moves _ _ _ _
  · exact Moves.one (.charge _ _ _ _ _ Nat.one_pos)

theorem State.escalateArea_moves (s : State) (a : AreaId) : Moves X s (s.escalateArea a) := by
  unfold State.escalateArea
  split
  · exact Moves.one (.escalate s)
  · exact Moves.refl s

theorem State.finalFailure_moves (s : State) (a : AreaId) (e : Entry) (how : Failure) :
    Moves (some (.entry a e.place)) s (s.finalFailure a e how) := by
  unfold State.finalFailure
  split
  · exact s.removeEntry_moves a e.place
  · exact ((State.recordFailure_moves _ _ _ _ _).trans (State.applyPolicy_moves _ _)).trans (State.escalateArea_moves _ _)

theorem State.markThrough_moves (s : State) (m : MasterId) : Moves X s (s.markThrough m) := by
  unfold State.markThrough
  split
  · exact Moves.refl s
  · exact (Moves.one (.through s m)).trans (State.raise_moves _ _)

theorem State.markThrough_fresh {s : State} {m : MasterId} (h : s.fresh m) : (s.markThrough m).fresh m := by
  have hc : (s.markThrough m).context m = s.context m := by
    unfold State.markThrough
    split
    · rfl
    · simp [State.context]
  unfold State.fresh at h ⊢
  rwa [hc, (s.markThrough_frame m).2.2.2.2.2.2.2.2.2.2.2.2.2.2.2.2.1]

theorem State.takeThrough_moves {s : State} {m : MasterId} (line : Line) (mask : Mask) (data : LineData) (h : s.fresh m) :
    Moves none s (s.takeThrough m line mask data) := by
  unfold State.takeThrough
  have hf := State.markThrough_fresh h
  refine (State.markThrough_moves s m).trans ?_
  dsimp only
  split
  · exact Moves.one (hf.answerable.move _)
  · exact Moves.one (.enter _ m _ rfl hf (by simp [Context.heldLine]))

/-- The entry that takes a merge is the tail of the queue, and HELD (R22). -/
theorem State.mergeTarget_tail {s : State} {a : AreaId} {w : WriteReq} {e : Entry} (h : s.mergeTarget a w = some e) :
    (∃ q, (s.area a).queue = q ++ [e]) ∧ e.state = .held := by
  unfold State.mergeTarget at h
  split at h
  · cases h
  · rename_i x hx
    simp only [Option.ite_none_right_eq_some, Option.some.injEq, Bool.and_eq_true, Entry.isHeld_iff] at h
    obtain ⟨h, rfl⟩ := h
    exact ⟨List.getLast?_eq_some_iff.mp hx, h.1.1.1.1.1.2⟩

theorem State.decideJoined_moves {s : State} {m : MasterId} {a : AreaId} (w : WriteReq) (h : s.fresh m)
    (hm : (s.master m).joinedArea = some a ∨ (s.area a).state = .joined) (hh : (s.area a).state ≠ .halted) :
    Moves X s (s.decideJoined m a w) := by
  unfold State.decideJoined
  split
  · rename_i e he
    obtain ⟨⟨q, hq⟩, hs⟩ := State.mergeTarget_tail he
    have : s.mergeTail a w e = s.setQueue a (q ++ [e.merged w]) := by simp [State.mergeTail, hq]
    rw [this]
    exact (Moves.one (.merge s a q e w hq hs)).then' (State.answerable.move (s := s.setQueue a (q ++ [e.merged w])) h.answerable _)
  · split
    · rename_i hlt
      split
      · exact (Moves.one (.post s m a w hm hh hlt)).then' (.wait _ m _ h trivial (by simp))
      · exact (Moves.one (.post s m a w hm hh hlt)).then' (State.answerable.move (s := s.postEntry a w) h.answerable _)
    · exact Moves.one (.wait s m _ h trivial (by simp))

theorem State.retryPosting_moves (s : State) (a : AreaId) : Moves X s (s.retryPosting a) := by
  unfold State.retryPosting
  split
  · exact Moves.refl s
  · split
    · rename_i w hc
      split
      · rename_i h
        exact State.decideJoined_moves w (.inr ⟨w, hc⟩) (.inr h.1) (by simp [h.1])
      · exact Moves.refl s
    all_goals exact Moves.refl s

theorem State.completeSync_moves (s : State) (m : MasterId) : Moves X s (s.completeSync m) := by
  unfold State.completeSync
  split
  · rename_i hc _
    split
    · exact Moves.refl s
    · exact State.answerSync_moves ⟨.inl (by simp [hc, Context.heldLine]), by simp [hc, Context.tag]⟩
  · rename_i hc _
    exact State.answerSync_moves ⟨.inl (by simp [hc, Context.heldLine]), by simp [hc, Context.tag]⟩
  · exact Moves.refl s

theorem State.settleSync_moves (s : State) (a : AreaId) : Moves X s (s.settleSync a) := by
  unfold State.settleSync
  split
  · exact Moves.refl s
  · exact s.completeSync_moves _

theorem State.endDrain_moves (s : State) (a : AreaId) : Moves X s (s.endDrain a) := by
  unfold State.endDrain
  split
  · split
    · exact Moves.refl s
    · exact (Moves.one (.operation s a _ _)).trans (State.raise_moves _ _)
  all_goals exact Moves.refl s

theorem State.endPurge_moves (s : State) (a : AreaId) : Moves X s (s.endPurge a) := by
  unfold State.endPurge
  split
  · split
    · exact Moves.refl s
    · unfold State.finishPurge
      refine ((Moves.one (.operation s a (s.area a).opAfter .complete)).trans (State.raise_moves _ .purged)).trans ?_
      dsimp only
      split
      · rename_i hh
        split
        · exact Moves.one (.beginDetach _ _ _ (.inr hh))
        · exact Moves.one (.resume _ _ hh)
      · exact Moves.refl _
  all_goals exact Moves.refl s

theorem State.settleArea_moves (s : State) (a : AreaId) : Moves X s (s.settleArea a) :=
  ((((s.retryPosting_moves a).trans (State.settleSync_moves _ _)).trans (State.endDrain_moves _ _)).trans (State.endPurge_moves _ _)).then'
    (.endDetach _ a)

theorem State.testSoftReset_moves (s : State) : Moves none s s.testSoftReset := by
  unfold State.testSoftReset
  split
  · rename_i h; exact Moves.one (.finishSoftReset s rfl h.1 h.2)
  · exact Moves.refl s

theorem State.releaseHolds_moves (s : State) : Moves X s s.releaseHolds := Moves.one (.markReleased s _)

theorem State.conclude_moves (s : State) (k : Nat) : Moves none s (s.conclude k) :=
  ((s.releaseHolds_moves.then' (.order _ k)).trans (State.testSoftReset_moves _)).trans (State.arbitrate_moves _)

/-! ## The fabric port -/

theorem State.takeRequest_moves (s : State) (m : MasterId) (k : State → State)
    (h : s.context m = .idle → s.responses = [] → Moves none s (k s)) : Moves none s (s.takeRequest m k) := by
  unfold State.takeRequest
  split
  · rename_i hr
    have hr := ((s.fabricReady_iff).mp hr).1
    split
    · rename_i hc; exact h hc hr
    · exact Moves.one (.send s m _ hr)
  · exact Moves.refl s

theorem State.decideWrite_moves {s : State} {m : MasterId} (w : WriteReq) (hc : s.context m = .idle) (hr : s.responses = []) :
    Moves none s (s.decideWrite m w) := by
  unfold State.decideWrite
  split
  · exact Moves.one (.send s m _ hr)
  · split
    · rename_i a ha
      split
      · exact Moves.one (.send s m _ hr)
      · rename_i hh
        exact (State.decideJoined_moves w (.inl ⟨hc, hr⟩) (.inl ha) hh).trans (State.arbitrate_moves _)
    · exact State.takeThrough_moves _ _ _ (.inl ⟨hc, hr⟩)

theorem State.decideRead_moves {s : State} {m : MasterId} (line : Line) (mask : Mask) (hc : s.context m = .idle) (hr : s.responses = []) :
    Moves none s (s.decideRead m line mask) := by
  unfold State.decideRead
  split
  · exact Moves.one (.send s m _ hr)
  · split
    · exact Moves.one (.send s m _ hr)
    · split
      · exact Moves.one (.send s m _ hr)
      · exact Moves.one (.enter s m _ rfl (.inl ⟨hc, hr⟩) (by simp [Context.heldLine]))

theorem State.decideSync_moves {s : State} {m : MasterId} (hc : s.context m = .idle) (hr : s.responses = []) :
    Moves none s (s.decideSync m) := by
  have hw : Moves none s (s.waitSync m) := (Moves.one (.wait s m (.syncWait s.nextPlace) (.inl ⟨hc, hr⟩) trivial (by simp))).trans (State.arbitrate_moves _)
  unfold State.decideSync
  split
  · split
    · exact State.answerHaltTerms_moves ⟨.inr ⟨hc, hr⟩, by simp [hc, Context.tag]⟩
    · split
      · exact State.answerSync_moves ⟨.inr ⟨hc, hr⟩, by simp [hc, Context.tag]⟩
      · exact hw
  · split
    · exact State.answerSync_moves ⟨.inr ⟨hc, hr⟩, by simp [hc, Context.tag]⟩
    · exact hw
  · exact State.answerSync_moves ⟨.inr ⟨hc, hr⟩, by simp [hc, Context.tag]⟩

/-! ## The memory port -/

theorem State.attemptFailed_moves (s : State) (a : AreaId) (e : Entry) (how : Failure) :
    Moves (some (.entry a e.place)) s (s.attemptFailed a e how) := by
  unfold State.attemptFailed
  split
  · exact (State.finalFailure_moves _ _ _ _).trans (State.settleArea_moves _ _)
  · split
    · exact ((s.removeEntry_moves a e.place).trans (State.answerStrict_moves _ _ _ _)).trans (State.settleArea_moves _ _)
    · exact Moves.one (.reissue s a _ rfl)

theorem State.retireDone_moves (s : State) (a : AreaId) (e : Entry) :
    Moves (some (.entry a e.place)) s (s.retireDone a e) := by
  unfold State.retireDone
  refine ((s.removeEntry_moves a e.place).trans ?_).trans (State.settleArea_moves _ _)
  split
  · exact State.answerStrict_moves _ _ _ _
  · exact Moves.refl _

theorem State.requestFailed_moves (s : State) (m : MasterId) (how : Failure) :
    Moves (some (.master m)) s (s.requestFailed m how) := by
  unfold State.requestFailed
  split
  · rename_i hc
    refine (Moves.one (.record s _)).then' (.answer _ m _ (.inl ?_) fun _ => rfl)
    simp [hc, Context.heldLine]
  · rename_i hc
    exact Moves.one (.answer s m _ (.inl (by simp [hc, Context.heldLine])) fun _ => rfl)
  all_goals exact Moves.refl s

theorem State.requestDone_moves (s : State) (m : MasterId) (data : LineData) :
    Moves (some (.master m)) s (s.requestDone m data) := by
  unfold State.requestDone
  split
  · rename_i hc
    exact Moves.one (.answer s m _ (.inl (by simp [hc, Context.heldLine])) fun _ => rfl)
  · rename_i hc
    exact Moves.one (.answer s m _ (.inl (by simp [hc, Context.heldLine])) fun _ => rfl)
  all_goals exact Moves.refl s

theorem State.handResult_moves (s : State) (user : TagUser) (result : MemResult) (data : LineData) :
    Moves (some user) s (s.handResult user result data) := by
  unfold State.handResult
  split
  · split
    · exact Moves.refl s
    · rename_i e he
      rw [← (AreaRec.entryAt_mem he).2]
      split
      · exact s.retireDone_moves _ _
      · exact s.attemptFailed_moves _ _ _
  · split
    · exact s.requestDone_moves _ _
    · exact s.requestFailed_moves _ _

theorem State.markStale_moves (s : State) : Moves X s s.markStale := by
  unfold State.markStale
  split
  · exact (State.raise_moves _ _).trans (State.raise_moves _ _)
  · exact State.raise_moves _ _

theorem State.unlessReset_moves (s : State) (k : State → State) (h : s.resetHeld = false → Moves none s (k s)) : Moves none s (s.unlessReset k) := by
  unfold State.unlessReset
  split
  · exact Moves.refl s
  · rename_i hr; exact h (by simpa using hr)

/-! ## The management port -/

theorem State.command_moves (s : State) (args : Nat) (k : State → Taken) (h : s.resetHeld = false → Moves none s (k s).state) :
    Moves none s (s.command args k) := by
  unfold State.command
  refine State.unlessReset_moves _ _ fun hr => ?_
  split
  · exact (h hr).then' (.world _ _ _ _ _ _)
  · exact Moves.refl s

theorem State.runningCommand_moves (s : State) (args : Nat) (k : State → Taken) (h : s.mode = .running → Moves none s (k s).state) :
    Moves none s (s.runningCommand args k) := by
  unfold State.runningCommand
  refine State.command_moves _ _ _ fun _ => ?_
  split
  · exact Moves.refl s
  · rename_i hm
    refine h ?_
    cases hs : s.mode
    · rfl
    · exact absurd hs hm

theorem State.endDetach_moves (s : State) (a : AreaId) : Moves none s (s.endDetach a) := Moves.one (.endDetach s a)

theorem State.detachArea_moves {s : State} {a : AreaId} (h : (s.area a).state = .joined) : Moves none s (s.detachArea a) := by
  unfold State.detachArea
  dsimp only
  refine (Moves.one (.beginDetach s a ((s.area a).pendingOp.getD .detach) (.inl h))).trans ?_
  split
  · exact Moves.refl _
  · unfold State.convertWaiting
    split
    · rename_i w hc
      exact State.takeThrough_moves _ _ _ (.inr ⟨w, hc⟩)
    all_goals exact Moves.refl _

theorem State.beginPurge_moves (s : State) (a : AreaId) : Moves none s (s.beginPurge a) :=
  (Moves.one (.operation s a (some (.purge s.nextPlace)) (s.area a).lastOutcome)).trans (State.dropEntries_moves _ _ _ _ fun e h => by
    simp only [Entry.droppable, Bool.and_eq_true, Bool.not_eq_true', decide_eq_true_eq] at h; exact h.1.2)

theorem State.shutArea_moves (s : State) (a : AreaId) : Moves none s (s.shutArea a) := by
  unfold State.shutArea
  split
  · exact Moves.refl s
  · exact Moves.one (.enlist s a)
  · rename_i h
    exact ((Moves.one (.enlist s a)).trans (State.detachArea_moves (by simp [State.enlist, h]))).then' (.endDetach _ a)
  · split
    · exact Moves.one (.enlist s a)
    · exact ((Moves.one (.enlist s a)).trans (State.beginPurge_moves _ _)).trans (State.settleArea_moves _ _)

theorem State.beginShutdown_moves (s : State) : Moves none s s.beginShutdown :=
  (Moves.one (.shutdown s)).trans (Moves.fold _ _ _ fun u a _ => u.shutArea_moves a)

/-! ## Every step -/

/-- The state that a command answers is reached by moves. -/
theorem next_moves {s s' t : State} (h : (Host.Outcome.next t : Result) = .next s') (hm : Moves none s t) : Moves none s s' := by
  cases h; exact hm

theorem execWrite_moves (m : MasterId) (line : Line) (mask : Mask) (strict : Bool) (data : LineData) {s s' : State}
    (h : execWrite m line mask strict data s = .next s') : Moves none s s' := by
  exact next_moves h (State.takeRequest_moves _ _ _ fun hc hr => State.decideWrite_moves _ hc hr)

theorem execRead_moves (m : MasterId) (line : Line) (mask : Mask) {s s' : State}
    (h : execRead m line mask s = .next s') : Moves none s s' := by
  exact next_moves h (State.takeRequest_moves _ _ _ fun hc hr => State.decideRead_moves _ _ hc hr)

theorem execSync_moves (m : MasterId) {s s' : State} (h : execSync m s = .next s') : Moves none s s' := by
  exact next_moves h (State.takeRequest_moves _ _ _ fun hc hr => State.decideSync_moves hc hr)

theorem execUnknownKindRequest_moves (m : MasterId) (kind : BitVec 2) {s s' : State}
    (h : execUnknownKindRequest m kind s = .next s') : Moves none s s' := by
  refine next_moves h ?_
  split
  · rename_i hr; exact Moves.one (.send s m _ ((s.fabricReady_iff).mp hr).1)
  · exact Moves.refl s

theorem execAnswerDelivery_moves {s s' : State} (h : execAnswerDelivery s = .next s') : Moves none s s' := by
  exact next_moves h (State.unlessReset_moves _ _ fun _ => Moves.one (.deliver s))

theorem execArbiterGrant_moves {s s' : State} (h : execArbiterGrant s = .next s') : Moves none s s' := by
  refine next_moves h (State.unlessReset_moves _ _ fun _ => ?_)
  cases hg : s.grantOnce with
  | none => exact Moves.refl s
  | some u =>
    obtain ⟨c, t, ha, ht, hc, rfl⟩ := State.grantOnce_eq_some hg
    exact Moves.one (.issue s c t rfl ha ht hc)

theorem execMemoryReady_moves (level : Ready) {s s' : State} (h : execMemoryReady level s = .next s') : Moves none s s' := by
  exact next_moves h ((Moves.one (.world s s.frame level s.now s.straps s.pending)).trans (State.arbitrate_moves _))

theorem execPostingWaitRetry_moves (a : AreaId) {s s' : State} (h : execPostingWaitRetry a s = .next s') : Moves none s s' := by
  exact next_moves h (State.unlessReset_moves _ _ fun _ => (s.retryPosting_moves a).trans (State.arbitrate_moves _))

theorem execHoldRelease_moves (m : MasterId) {s s' : State} (h : execHoldRelease m s = .next s') : Moves none s s' := by
  refine next_moves h (State.unlessReset_moves _ _ fun _ => ?_)
  refine Moves.trans (Moves.one ?_) (State.arbitrate_moves _)
  have := Move.markReleased (X := none) s fun p => decide (p.master = m ∧ s.lineClear (s.context m))
  simpa [State.releaseOne] using this

theorem execSyncCompletion_moves (m : MasterId) {s s' : State} (h : execSyncCompletion m s = .next s') : Moves none s s' := by
  exact next_moves h (State.unlessReset_moves _ _ fun _ => s.completeSync_moves m)

theorem execDetachCompletion_moves (a : AreaId) {s s' : State} (h : execDetachCompletion a s = .next s') : Moves none s s' := by
  exact next_moves h (State.unlessReset_moves _ _ fun _ =>
    ((s.endDetach_moves a).trans (State.testSoftReset_moves _)).trans (State.arbitrate_moves _))

theorem execPurgeEnd_moves (a : AreaId) {s s' : State} (h : execPurgeEnd a s = .next s') : Moves none s s' := by
  exact next_moves h (State.unlessReset_moves _ _ fun _ =>
    (((s.endPurge_moves a).then' (.endDetach _ a)).trans (State.testSoftReset_moves _)).trans (State.arbitrate_moves _))

theorem execDrainEnd_moves (a : AreaId) {s s' : State} (h : execDrainEnd a s = .next s') : Moves none s s' := by
  refine next_moves h (State.unlessReset_moves _ _ fun _ => ?_)
  unfold State.endDrainNow
  split
  · exact s.cutDrain_moves a
  · exact s.endDrain_moves a

theorem execSoftResetEnd_moves {s s' : State} (h : execSoftResetEnd s = .next s') : Moves none s s' := by
  exact next_moves h (State.unlessReset_moves _ _ fun _ => s.testSoftReset_moves.trans (State.arbitrate_moves _))

theorem execIdentify_moves {s s' : State} (h : execIdentify s = .next s') : Moves none s s' := by
  exact next_moves h (State.command_moves _ _ _ fun _ => Moves.refl s)

theorem execGetStatus_moves {s s' : State} (h : execGetStatus s = .next s') : Moves none s s' := by
  exact next_moves h (State.command_moves _ _ _ fun _ => Moves.refl s)

theorem execGetArea_moves (area : Byte) {s s' : State} (h : execGetArea area s = .next s') : Moves none s s' := by
  refine next_moves h (State.command_moves _ _ _ fun _ => ?_); split <;> exact Moves.refl s

theorem execGetMaster_moves (master : Byte) {s s' : State} (h : execGetMaster master s = .next s') : Moves none s s' := by
  refine next_moves h (State.command_moves _ _ _ fun _ => ?_); split <;> exact Moves.refl s

theorem execSetPool_moves (sizes : Vector Byte 12) {s s' : State} (h : execSetPool sizes s = .next s') : Moves none s s' := by
  refine next_moves h (State.runningCommand_moves _ _ _ fun _ => ?_)
  split
  · rename_i hf
    split
    · rename_i hv
      refine Moves.one (.sizes s sizes ?_ hv)
      simp only [Bool.and_eq_true, List.all_eq_true, mem_allAreas, forall_const, beq_iff_eq, State.poolOccupancy] at hf
      intro a
      refine ⟨hf.1 a, ?_⟩
      have := List.sum_eq_zero_iff.mp hf.2 (s.area a).occupancy (List.mem_map_of_mem (mem_allAreas a))
      exact List.length_eq_zero_iff.mp this
    · exact Moves.refl s
  · exact Moves.refl s

theorem execSetArea_moves (area policy escalate retry linger highWater merge : Byte) {s s' : State}
    (h : execSetArea area policy escalate retry linger highWater merge s = .next s') : Moves none s s' := by
  refine next_moves h (State.runningCommand_moves _ _ _ fun _ => ?_)
  split
  · split
    · rename_i hv
      have hl : linger.toNat ≤ 255 := by have := linger.isLt; omega
      exact (Moves.one (.settings s _ _ _ _ _ _ _ hv.1 hl hv.2)).trans (State.arbitrate_moves _)
    · exact Moves.refl s
  · exact Moves.refl s

theorem execSetGlobal_moves (timeout : BitVec 16) (arbitration overflowEscalates : Byte) (alertMask : BitVec 16) {s s' : State}
    (h : execSetGlobal timeout arbitration overflowEscalates alertMask s = .next s') : Moves none s s' := by
  refine next_moves h (State.runningCommand_moves _ _ _ fun _ => ?_)
  split
  · split
    · rename_i hv; exact Moves.one (.globals s _ _ _ _ hv.1 hv.2)
    · exact Moves.refl s
  · exact Moves.refl s

theorem execJoin_moves (area master : Byte) {s s' : State} (h : execJoin area master s = .next s') : Moves none s s' := by
  refine next_moves h (State.runningCommand_moves _ _ _ fun _ => ?_)
  split
  · split
    · exact Moves.refl s
    · rename_i hs
      split
      · exact Moves.refl s
      · rename_i hz
        split
        · exact Moves.refl s
        · rename_i hj
          push Not at hj hs
          exact Moves.one (.join s _ _ hs hz hj.1 hj.2)
  · exact Moves.refl s

theorem execUnjoin_moves (area : Byte) {s s' : State} (h : execUnjoin area s = .next s') : Moves none s s' := by
  refine next_moves h (State.runningCommand_moves _ _ _ fun _ => ?_)
  split
  · split
    · exact Moves.refl s
    · rename_i hs
      split
      · exact Moves.refl s
      · push Not at hs
        exact ((State.detachArea_moves hs).then' (.endDetach _ _)).trans (State.conclude_moves _ s.responses.length)
  · exact Moves.refl s

theorem execResume_moves (area : Byte) {s s' : State} (h : execResume area s = .next s') : Moves none s s' := by
  refine next_moves h (State.runningCommand_moves _ _ _ fun _ => ?_)
  split
  · split
    · exact Moves.refl s
    · rename_i hs
      split
      · exact Moves.refl s
      · push Not at hs
        exact (Moves.one (.resume s _ hs)).trans (State.arbitrate_moves _)
  · exact Moves.refl s

theorem State.purgeArea_moves (s : State) (a : AreaId) (n : Nat) : Moves none s (((s.beginPurge a).settleArea a).conclude n) :=
  ((s.beginPurge_moves a).trans (State.settleArea_moves _ a)).trans (State.conclude_moves _ n)

theorem execPurge_moves (area : Byte) {s s' : State} (h : execPurge area s = .next s') : Moves none s s' := by
  refine next_moves h (State.runningCommand_moves _ _ _ fun _ => ?_)
  split
  · rename_i a _
    split
    · exact Moves.refl s
    · split
      · exact Moves.refl s
      · dsimp only [State.accepted]
        exact s.purgeArea_moves a s.responses.length
  · exact Moves.refl s

theorem execDrain_moves (area : Byte) {s s' : State} (h : execDrain area s = .next s') : Moves none s s' := by
  refine next_moves h (State.runningCommand_moves _ _ _ fun _ => ?_)
  split
  · rename_i a _
    split
    · exact Moves.refl s
    · split
      · exact Moves.refl s
      · exact ((Moves.one (.operation s a (some (.drain s.nextPlace)) (s.area a).lastOutcome)).trans (State.endDrain_moves _ _)).trans
          (State.arbitrate_moves _)
  · exact Moves.refl s

theorem execPeekFault_moves {s s' : State} (h : execPeekFault s = .next s') : Moves none s s' := by
  refine next_moves h (State.command_moves _ _ _ fun _ => ?_); split <;> exact Moves.refl s

theorem execReadFault_moves {s s' : State} (h : execReadFault s = .next s') : Moves none s s' := by
  refine next_moves h (State.command_moves _ _ _ fun _ => ?_); split <;> exact Moves.refl s

theorem execClearMaster_moves (master : Byte) {s s' : State} (h : execClearMaster master s = .next s') : Moves none s s' := by
  refine next_moves h (State.runningCommand_moves s 1 _ fun _ => ?_)
  cases masterOf master with
  | some m => exact Moves.one (.clearMaster s m)
  | none => exact Moves.refl s

theorem execAckEvents_moves (events : BitVec 16) {s s' : State} (h : execAckEvents events s = .next s') : Moves none s s' := by
  exact next_moves h (State.command_moves _ _ _ fun _ => Moves.one (.flags s _))

theorem execRecoverTags_moves {s s' : State} (h : execRecoverTags s = .next s') : Moves none s s' := by
  exact next_moves h (State.runningCommand_moves _ _ _ fun _ => (Moves.one (.freeStale s)).trans (State.arbitrate_moves _))

theorem execSoftReset_moves {s s' : State} (h : execSoftReset s = .next s') : Moves none s s' := by
  refine next_moves h (State.runningCommand_moves s 0 _ fun _ => ?_)
  dsimp only [State.accepted]
  exact s.beginShutdown_moves.trans (State.conclude_moves s.beginShutdown s.responses.length)

theorem execReadResetRecord_moves {s s' : State} (h : execReadResetRecord s = .next s') : Moves none s s' := by
  exact next_moves h (State.command_moves _ _ _ fun _ => Moves.refl s)

theorem execClearResetRecord_moves {s s' : State} (h : execClearResetRecord s = .next s') : Moves none s s' := by
  exact next_moves h (State.runningCommand_moves _ _ _ fun _ => Moves.one (.clearResetRecord s _))

theorem execUnknownCommand_moves (code : Byte) {s s' : State} (h : execUnknownCommand code s = .next s') : Moves none s s' := by
  exact next_moves h (State.command_moves _ _ _ fun _ => Moves.refl s)

theorem execSelectRelease_moves {s s' : State} (h : execSelectRelease s = .next s') : Moves none s s' := by
  exact next_moves h (Moves.one (.world s _ s.memoryReady s.now s.straps s.pending))

theorem execPinReset_moves {s s' : State} (h : execPinReset s = .next s') : Moves none s s' := by
  exact next_moves h (State.unlessReset_moves _ _ fun _ => Moves.one (.pinReset s))

theorem execResetRelease_moves (straps : BitVec 2) {s s' : State} (h : execResetRelease straps s = .next s') : Moves none s s' := by
  exact next_moves h (Moves.one (.releaseReset s straps))

theorem execPowerOn_moves (straps : BitVec 2) (resetLow : Bool) {s s' : State}
    (h : execPowerOn straps resetLow s = .next s') : Moves none s s' := by
  exact next_moves h (Moves.one (.powerOn s straps resetLow))

theorem execSelectAssertion_moves {s s' : State} (h : execSelectAssertion s = .next s') : Moves none s s' := by
  refine next_moves h ?_; split <;> exact Moves.one (.world s _ s.memoryReady s.now s.straps s.pending)

theorem execFaultRecordRemoval_moves {s s' : State} (h : execFaultRecordRemoval s = .next s') : Moves none s s' := by
  refine next_moves h (State.unlessReset_moves _ _ fun _ => ?_)
  split
  · exact Moves.one (.popRecord s _)
  all_goals exact Moves.refl s

/-! ## The turns of a tag -/

/-- A change: a move, or the turn of a BUSY tag with the handling of its user. -/
inductive Change : State → State → Prop
  | move {s t : State} (h : Move none s t) : Change s t
  | complete (s : State) (t : TagId) (tr : Transaction) (result : MemResult) (data : LineData) (h : s.tag t = .busy tr) :
      Change s ((s.setTag t .free).handResult tr.user result data)
  | expire (s : State) (t : TagId) (tr : Transaction) (h : s.tag t = .busy tr) :
      Change s (((s.setTag t (.stale tr.user.isEntry)).markStale).handResult tr.user (.failed .expiry) zeroData)

/-- A chain of changes. -/
def Changes : State → State → Prop := Relation.ReflTransGen Change

theorem Moves.changes {s t : State} (h : Moves none s t) : Changes s t := by
  induction h with
  | refl => exact Relation.ReflTransGen.refl
  | tail _ hm ih => exact Relation.ReflTransGen.tail ih (.move hm)

namespace Changes

theorem refl (s : State) : Changes s s := Relation.ReflTransGen.refl

theorem one {s t : State} (h : Change s t) : Changes s t := Relation.ReflTransGen.single h

theorem trans {s t u : State} (h : Changes s t) (k : Changes t u) : Changes s u := Relation.ReflTransGen.trans h k

/-- What every change keeps, a chain of changes keeps. -/
theorem keeps {P : State → Prop} (hP : ∀ s t, Change s t → P s → P t) {s t : State} (h : Changes s t) (hs : P s) : P t := by
  induction h with
  | refl => exact hs
  | tail _ hm ih => exact hP _ _ hm ih

/-- What every move keeps, and both turns of a tag by themselves, a chain of changes keeps. -/
theorem keeps_of_moves {P : State → Prop} (hm : ∀ X s t, Move X s t → P s → P t)
    (hf : ∀ s t tr, s.tag t = .busy tr → P s → P (s.setTag t .free))
    (hst : ∀ s t tr, s.tag t = .busy tr → P s → P (s.setTag t (.stale tr.user.isEntry))) {s t : State} (h : Changes s t) (hs : P s) :
    P t := by
  refine keeps (fun u v huv hu => ?_) h hs
  cases huv with
  | move h => exact hm _ _ _ h hu
  | complete t tr result data h => exact Moves.keeps (hm _) (State.handResult_moves _ _ _ _) (hf _ _ _ h hu)
  | expire t tr h =>
    exact Moves.keeps (hm _) ((State.markStale_moves _).trans (State.handResult_moves _ _ _ _)) (hst _ _ _ h hu)

/-- A fold whose every step is a chain of changes. -/
theorem fold {α : Type} (f : State → α → State) (l : List α) (s : State) (h : ∀ u x, x ∈ l → Changes u (f u x)) :
    Changes s (l.foldl f s) := by
  induction l generalizing s with
  | nil => exact refl s
  | cons x l ih => exact (h s x (by simp)).trans (ih _ fun u y hy => h u y (by simp [hy]))

end Changes

theorem State.takeCompletion_changes (s : State) (t : TagId) (result : MemResult) (data : LineData) :
    Changes s (s.takeCompletion t result data) := by
  unfold State.takeCompletion
  split
  · rename_i h
    exact (Changes.one (.complete s t _ result data h)).trans (State.conclude_moves _ _).changes
  · rename_i h
    exact ((Moves.one (.late s t _ h)).trans (State.arbitrate_moves _)).changes
  · exact Changes.refl s

theorem State.expireTag_changes {s : State} {t : TagId} {tr : Transaction} (h : s.tag t = .busy tr) : Changes s (s.expireTag t tr) :=
  (Changes.one (.expire s t tr h)).trans (State.conclude_moves _ _).changes

theorem State.expireIfDue_changes (s : State) (t : TagId) : Changes s (s.expireIfDue t) := by
  unfold State.expireIfDue
  split
  · rename_i h
    split
    · exact State.expireTag_changes h
    · exact Changes.refl s
  all_goals exact Changes.refl s

theorem State.expireDue_changes (s : State) : Changes s s.expireDue := Changes.fold _ _ _ fun u t _ => u.expireIfDue_changes t

theorem State.setNow_changes (s : State) (n : Nat) : Changes s { s with now := n } :=
  (Moves.one (.world s s.frame s.memoryReady n s.straps s.pending)).changes

theorem State.moveOn_changes (s : State) : Changes s s.moveOn := s.expireDue_changes.trans (s.expireDue.setNow_changes _)

theorem State.tick_changes (s : State) : Changes s s.tick := by
  unfold State.tick
  split
  · exact s.setNow_changes _
  · exact (s.moveOn_changes.trans (State.expireDue_changes _)).trans (State.arbitrate_moves _).changes

theorem State.pass_changes (n : Nat) (s : State) : Changes s (s.pass n) := by
  induction n generalizing s with
  | zero => exact Changes.refl s
  | succ n ih => exact s.tick_changes.trans (ih _)

theorem State.reach_changes (s : State) (time : Nat) : Changes s (s.reach time) := by
  unfold State.reach
  split
  · exact Changes.refl s
  · exact (State.pass_changes _ s).trans (State.moveOn_changes _)

theorem State.runOut_changes (s : State) (t : TagId) : Changes s (s.runOut t) := by
  unfold State.runOut
  split
  · rename_i h
    exact (State.reach_changes _ _).trans (State.expireTag_changes (State.reach_tag h le_rfl))
  all_goals exact Changes.refl s

theorem State.endLinger_changes (s : State) (a : AreaId) : Changes s (s.endLinger a) := by
  unfold State.endLinger
  split
  · exact (State.reach_changes _ _).trans (State.arbitrate_moves _).changes
  · exact Changes.refl s

theorem State.unlessReset_changes (s : State) (k : State → State) (h : Changes s (k s)) : Changes s (s.unlessReset k) := by
  unfold State.unlessReset
  split
  · exact Changes.refl s
  · exact h

theorem next_changes {s s' t : State} (h : (Host.Outcome.next t : Result) = .next s') (hm : Changes s t) : Changes s s' := by
  cases h; exact hm

theorem execCompletion_changes (t : TagId) (result : BitVec 2) (data : LineData) {s s' : State}
    (h : execCompletion t result data s = .next s') : Changes s s' := by
  exact next_changes h (State.unlessReset_changes _ _ (s.takeCompletion_changes _ _ _))

theorem execExpiry_changes (t : TagId) {s s' : State} (h : execExpiry t s = .next s') : Changes s s' := by
  exact next_changes h (State.unlessReset_changes _ _ (s.runOut_changes t))

theorem execLingerExpiry_changes (a : AreaId) {s s' : State} (h : execLingerExpiry a s = .next s') : Changes s s' := by
  exact next_changes h (State.unlessReset_changes _ _ (s.endLinger_changes a))

/-- Every command is a chain of changes. -/
theorem exec_changes {c : Instr} {s s' : State} (h : exec c s = .next s') : Changes s s' := by
  cases c with
  | write m line mask strict data => exact (execWrite_moves m line mask strict data h).changes
  | read m line mask => exact (execRead_moves m line mask h).changes
  | sync m => exact (execSync_moves m h).changes
  | unknownKindRequest m kind => exact (execUnknownKindRequest_moves m kind h).changes
  | answerDelivery => exact (execAnswerDelivery_moves h).changes
  | arbiterGrant => exact (execArbiterGrant_moves h).changes
  | memoryReady level => exact (execMemoryReady_moves level h).changes
  | completion t result data => exact execCompletion_changes t result data h
  | expiry t => exact execExpiry_changes t h
  | lingerExpiry a => exact execLingerExpiry_changes a h
  | postingWaitRetry a => exact (execPostingWaitRetry_moves a h).changes
  | holdRelease m => exact (execHoldRelease_moves m h).changes
  | syncCompletion m => exact (execSyncCompletion_moves m h).changes
  | detachCompletion a => exact (execDetachCompletion_moves a h).changes
  | purgeEnd a => exact (execPurgeEnd_moves a h).changes
  | drainEnd a => exact (execDrainEnd_moves a h).changes
  | softResetEnd => exact (execSoftResetEnd_moves h).changes
  | identify => exact (execIdentify_moves h).changes
  | getStatus => exact (execGetStatus_moves h).changes
  | getArea area => exact (execGetArea_moves area h).changes
  | getMaster master => exact (execGetMaster_moves master h).changes
  | setPool sizes => exact (execSetPool_moves sizes h).changes
  | setArea area policy escalate retry linger highWater merge => exact (execSetArea_moves area policy escalate retry linger highWater merge h).changes
  | setGlobal timeout arbitration overflowEscalates alertMask => exact (execSetGlobal_moves timeout arbitration overflowEscalates alertMask h).changes
  | join area master => exact (execJoin_moves area master h).changes
  | unjoin area => exact (execUnjoin_moves area h).changes
  | resume area => exact (execResume_moves area h).changes
  | purge area => exact (execPurge_moves area h).changes
  | drain area => exact (execDrain_moves area h).changes
  | peekFault => exact (execPeekFault_moves h).changes
  | readFault => exact (execReadFault_moves h).changes
  | clearMaster master => exact (execClearMaster_moves master h).changes
  | ackEvents events => exact (execAckEvents_moves events h).changes
  | recoverTags => exact (execRecoverTags_moves h).changes
  | softReset => exact (execSoftReset_moves h).changes
  | readResetRecord => exact (execReadResetRecord_moves h).changes
  | clearResetRecord => exact (execClearResetRecord_moves h).changes
  | unknownCommand code => exact (execUnknownCommand_moves code h).changes
  | selectRelease => exact (execSelectRelease_moves h).changes
  | pinReset => exact (execPinReset_moves h).changes
  | resetRelease straps => exact (execResetRelease_moves straps h).changes
  | powerOn straps resetLow => exact (execPowerOn_moves straps resetLow h).changes
  | selectAssertion => exact (execSelectAssertion_moves h).changes
  | faultRecordRemoval => exact (execFaultRecordRemoval_moves h).changes

/-- Every step is a chain of changes: what each change keeps, every step keeps. -/
theorem step_changes {s s' : State} (h : step s = .next s') : Changes s s' := by
  unfold step at h
  split at h
  · rename_i i rest _
    exact (Moves.one (.world s s.frame s.memoryReady s.now s.straps rest)).changes.trans (exec_changes h)
  · cases h; exact s.tick_changes

end Sys2Proof.Machine
end

