-- ==== Sys2Proof/Laws/Waits.lean ====
section
/-! SUPPORT. What keeps the bridge's own tests made: the areas' waiters, the Hold List and the end of a soft reset, through each shared
operation that can meet or break their conditions. -/

namespace Sys2Proof.Machine

/-- Every move keeps the joins agreed. The lemmas below take it as a premise. -/
abbrev JoinsMove : Prop := ∀ (X : Option TagUser) (s t : State), Move X s t → s.JoinsAgree → t.JoinsAgree

/-- Agreement of the joins is a matter of the area and master records. -/
theorem joinsAgree_of_eq {s t : State} (ha : t.areas = s.areas) (hm : t.masters = s.masters) (hs : s.JoinsAgree) : t.JoinsAgree := by
  have hA : ∀ a, t.area a = s.area a := fun a => by simp [State.area, ha]
  have hM : ∀ m, t.master m = s.master m := fun m => by simp [State.master, hm]
  simpa only [State.JoinsAgree, hA, hM] using hs

theorem State.beginDetach_context (s : State) (a : AreaId) (o : LongOp) (m : MasterId) : (s.beginDetach a o).context m = s.context m := by
  simp only [State.context, State.beginDetach_master]; split <;> rfl

theorem State.endDetach_context (s : State) (a : AreaId) (m : MasterId) : (s.endDetach a).context m = s.context m := by
  simp only [State.context]
  rcases State.endDetach_master s a m with h | ⟨_, _, _, h⟩ <;> rw [h]

theorem State.finishSoftReset_area (s : State) (a : AreaId) : (s.finishSoftReset).area a = (s.area a).afterSoftReset := by
  simp [State.finishSoftReset, State.area, State.raise]

theorem State.refuseHolds_master_eq (s : State) (a : AreaId) (m : MasterId) :
    (s.refuseHolds a).master m = { s.master m with context := (s.refuseHolds a).context m } := by
  unfold State.refuseHolds
  refine foldl_keeps (P := fun u : State => u.master m = { s.master m with context := u.context m }) _ _ _ rfl fun u p _ h => ?_
  by_cases hm : m = p.master
  · subst hm
    have h1 : (u.answer p.master (.error .halted)).master p.master = { u.master p.master with context := .idle } := by simp
    have h2 : (u.answer p.master (.error .halted)).context p.master = .idle := by simp
    rw [h1, h2, h]
  · simp [hm]; exact h

/-- The context waits on its master's area, in POSTING_WAIT or SYNC_WAIT. -/
def Context.awaitsArea : Context → Bool
  | .postingWait _ | .syncWait _ => true
  | .idle | .strictWait _ | .throughWait _ _ | .readWait _ _ => false

/-- No context begins to wait on an area: each is as before, or does not wait on one. -/
def EndsWaits (s u : State) : Prop := ∀ m, u.context m = s.context m ∨ Context.awaitsArea (u.context m) = false

theorem EndsWaits.refl (s : State) : EndsWaits s s := fun _ => .inl rfl

theorem EndsWaits.of_eq {s u : State} (h : ∀ m, u.context m = s.context m) : EndsWaits s u := fun m => .inl (h m)

theorem EndsWaits.trans {s u v : State} (h : EndsWaits s u) (k : EndsWaits u v) : EndsWaits s v := fun m => by
  rcases k m with k | k
  · rcases h m with h | h
    · exact .inl (k.trans h)
    · right; rw [k]; exact h
  · exact .inr k

theorem EndsWaits.post {s u : State} (h : EndsWaits s u) {m w} (k : u.context m = .postingWait w) : s.context m = .postingWait w := by
  rcases h m with h | h
  · rw [← h]; exact k
  · rw [k] at h; cases h

theorem EndsWaits.sync {s u : State} (h : EndsWaits s u) {m w} (k : u.context m = .syncWait w) : s.context m = .syncWait w := by
  rcases h m with h | h
  · rw [← h]; exact k
  · rw [k] at h; cases h

/-- No slot is free for the area's write in POSTING_WAIT (R27). -/
def SlotAwaited (s : State) (a : AreaId) : Prop :=
  ∀ m w, (s.area a).state = .joined → (s.area a).master = some m → s.context m = .postingWait w →
    (s.area a).size ≤ (s.area a).queue.length

/-- The SYNC that waits on the area has its mark before it (R92). -/
def SyncAwaited (s : State) (a : AreaId) : Prop :=
  ∀ m mark, (s.area a).master = some m → s.context m = .syncWait mark → ∃ e ∈ (s.area a).queue, e.place < mark

/-- The area's DRAIN has its mark before it, and the area is not HALTED (R130). -/
def DrainAwaited (s : State) (a : AreaId) : Prop :=
  ∀ mark, (s.area a).pendingOp = some (.drain mark) → (s.area a).state ≠ .halted ∧ ∃ e ∈ (s.area a).queue, e.place < mark

/-- The area's PURGE has its mark before it (R114). -/
def PurgeAwaited (s : State) (a : AreaId) : Prop :=
  ∀ mark, (s.area a).pendingOp = some (.purge mark) → ∃ e ∈ (s.area a).queue, e.place < mark

/-- A DETACHING area holds an entry (R17). -/
def DetachAwaited (s : State) (a : AreaId) : Prop := (s.area a).state = .detaching → (s.area a).queue ≠ []

theorem areaWaits_iff (s : State) (a : AreaId) :
    s.AreaWaits a ↔ SlotAwaited s a ∧ SyncAwaited s a ∧ DrainAwaited s a ∧ PurgeAwaited s a ∧ DetachAwaited s a := Iff.rfl

/-- Every entry is still there, with its line and place. -/
def Grows (x y : AreaRec) : Prop :=
  x.queue.length ≤ y.queue.length ∧ ∀ e ∈ x.queue, ∃ e' ∈ y.queue, e'.line = e.line ∧ e'.place = e.place

theorem Grows.refl (x : AreaRec) : Grows x x := ⟨le_rfl, fun e h => ⟨e, h, rfl, rfl⟩⟩

theorem Grows.of_queue {x y : AreaRec} (h : y.queue = x.queue) : Grows x y := by unfold Grows; rw [h]; exact Grows.refl x

theorem Grows.of_lasting {x y : AreaRec} (h : y.queue.map Entry.lasting = x.queue.map Entry.lasting) : Grows x y := by
  refine ⟨by simpa using (congrArg List.length h).ge, fun e he => ?_⟩
  have : e.lasting ∈ y.queue.map Entry.lasting := by rw [h]; exact List.mem_map_of_mem he
  obtain ⟨e', g1, g2⟩ := List.mem_map.mp this
  simp only [Entry.lasting, Prod.mk.injEq] at g2
  exact ⟨e', g1, g2.1, g2.2.2.2.1⟩

theorem Grows.before {x y : AreaRec} (h : Grows x y) {mark : Nat} (k : ∃ e ∈ x.queue, e.place < mark) : ∃ e ∈ y.queue, e.place < mark := by
  obtain ⟨e, he, hm⟩ := k
  obtain ⟨e', he', _, hp⟩ := h.2 e he
  exact ⟨e', he', hp ▸ hm⟩

theorem Grows.ne {x y : AreaRec} (h : Grows x y) (k : x.queue ≠ []) : y.queue ≠ [] := by
  have := List.length_pos_iff.mpr k
  exact List.length_pos_iff.mp (this.trans_le h.1)

/-- An area whose entries stay, and whose master's wait is as before or over, still waits. -/
theorem areaWaits_of {s u : State} {a : AreaId} (h : s.AreaWaits a) (h1 : (u.area a).state = (s.area a).state)
    (h2 : (u.area a).master = (s.area a).master)
    (h3 : (u.area a).pendingOp = (s.area a).pendingOp) (h4 : (u.area a).size = (s.area a).size) (hq : Grows (s.area a) (u.area a))
      (hc : EndsWaits s u) :
    u.AreaWaits a := by
  obtain ⟨k1, k2, k3, k4, k5⟩ := h
  refine ⟨fun m w => ?_, fun m mark => ?_, fun mark => ?_, fun mark => ?_, ?_⟩
  · rw [h1, h2, h4]; exact fun g1 g2 g3 => (k1 m w g1 g2 (hc.post g3)).trans hq.1
  · rw [h2]; exact fun g1 g2 => hq.before (k2 m mark g1 (hc.sync g2))
  · rw [h3, h1]; exact fun g => ⟨(k3 mark g).1, hq.before (k3 mark g).2⟩
  · rw [h3]; exact fun g => hq.before (k4 mark g)
  · rw [h1]; exact fun g => hq.ne (k5 g)

theorem areaWaits_of_area {s u : State} {a : AreaId} (h : s.AreaWaits a) (ha : u.area a = s.area a) (hc : EndsWaits s u) : u.AreaWaits a :=
  areaWaits_of h (by rw [ha]) (by rw [ha]) (by rw [ha]) (by rw [ha]) (by rw [ha]; exact .refl _) hc

/-- Waiters stay joined while the joins stay and no JOINED area leaves that state. -/
theorem waitersJoined_of {s u : State} (h : s.WaitersJoined)
    (hm : ∀ m, (u.master m).joinedArea = (s.master m).joinedArea ∧ (u.master m).detachingArea = (s.master m).detachingArea)
    (ha : ∀ a, (s.area a).state = .joined → (u.area a).state = .joined) (hc : EndsWaits s u) : u.WaitersJoined := by
  refine ⟨fun m w k => ?_, fun m mark k => ?_⟩
  · obtain ⟨a, h1, h2⟩ := h.1 m w (hc.post k)
    exact ⟨a, by rw [(hm m).1]; exact h1, ha a h2⟩
  · obtain ⟨a, h1⟩ := h.2 m mark (hc.sync k)
    exact ⟨a, by rw [(hm m).1, (hm m).2]; exact h1⟩

/-- Held requests still wait while entries and BUSY tags stay and no request joins them. -/
theorem holdsWait_of {s u : State} (h : s.HoldsWait) (hh : ∀ p ∈ u.holdList, p.released = false → ∃ p' ∈ s.holdList,
    p'.released = false ∧ p'.master = p.master)
    (hc : ∀ m, u.context m = s.context m ∨ (u.context m).heldLine = none)
    (hq : ∀ a, ∀ e ∈ (s.area a).queue, ∃ e' ∈ (u.area a).queue, e'.line = e.line ∧ e'.place = e.place)
    (ht : ∀ t tr, s.tag t = .busy tr → u.tag t = .busy tr) : u.HoldsWait := by
  intro p hp hr
  obtain ⟨p', hp', hr', hm⟩ := hh p hp hr
  have hx := h p' hp' hr'
  rw [hm] at hx
  rcases hc p.master with k | k
  · rw [k]
    refine ⟨fun r hr => ?_, fun w hw => ?_⟩
    · rcases hx.1 r hr with ⟨a, e, he, hl⟩ | ⟨t, tr, htr, hl⟩
      · obtain ⟨e', h1, h2, h3⟩ := hq a e he
        exact .inl ⟨a, e', h1, h2.trans hl⟩
      · exact .inr ⟨t, tr, TagState.transaction_eq_some.mpr (ht t tr (TagState.transaction_eq_some.mp htr)), hl⟩
    · rcases hx.2 w hw with ⟨a, e, he, hl, hpl⟩ | ⟨t, tr, htr, hl⟩
      · obtain ⟨e', h1, h2, h3⟩ := hq a e he
        exact .inl ⟨a, e', h1, h2.trans hl, h3 ▸ hpl⟩
      · exact .inr ⟨t, tr, TagState.transaction_eq_some.mpr (ht t tr (TagState.transaction_eq_some.mp htr)), hl⟩
  · refine ⟨fun r hr => ?_, fun w hw => ?_⟩
    · rw [hr] at k; cases k
    · rw [hw] at k; cases k

/-- The soft reset still waits while the areas' states and the BUSY tags stay. -/
theorem shutdownWaits_of {s u : State} (h : s.ShutdownWaits) (hm : u.mode = s.mode) (ha : ∀ a, (u.area a).state = (s.area a).state)
    (ht : ∀ t tr, s.tag t = .busy tr → u.tag t = .busy tr) : u.ShutdownWaits := by
  intro k
  rw [hm] at k
  rcases h k with ⟨a, g⟩ | ⟨t, g⟩
  · exact .inl ⟨a, by rw [ha]; exact g⟩
  · obtain ⟨tr, g⟩ := (TagState.isBusy_iff _).mp g
    exact .inr ⟨t, (TagState.isBusy_iff _).mpr ⟨tr, ht t tr g⟩⟩

/-- Every area waits, and every waiter is joined. -/
def AreasWait (s : State) : Prop := (∀ a, s.AreaWaits a) ∧ s.WaitersJoined

theorem areasWait_of {s u : State} (h : AreasWait s) (ha : ∀ a, u.area a = s.area a)
    (hm : ∀ m, (u.master m).joinedArea = (s.master m).joinedArea ∧ (u.master m).detachingArea = (s.master m).detachingArea)
      (hc : EndsWaits s u) : AreasWait u :=
  ⟨fun a => areaWaits_of_area (h.1 a) (ha a) hc, waitersJoined_of h.2 hm (fun a k => by rw [ha]; exact k) hc⟩

/-! ## The arbiter -/
theorem State.issue_endsWaits (s : State) (c : Claimant) (t : TagId) : EndsWaits s (s.issue c t) := fun m => by
  rcases ((State.issue_spec s c t).2.1 m).2 with h | ⟨_, h⟩
  · exact .inl h
  · right; cases hc : (s.issue c t).context m <;> rw [hc] at h <;> first | rfl | exact absurd rfl h

theorem State.arbitrate_endsWaits (s : State) : EndsWaits s s.arbitrate := State.arbitrate_induct (P := EndsWaits s) s
    (.refl s) fun u c x h _ _ _ => h.trans (State.issue_endsWaits u c x)

theorem State.arbitrate_areaWaits {s : State} {a : AreaId} (h : s.AreaWaits a) : s.arbitrate.AreaWaits a :=
  State.arbitrate_induct (P := fun u => u.AreaWaits a) s h fun u c x h _ _ _ => by
    have hk := ((State.issue_spec u c x).1 a)
    refine areaWaits_of h ?_ ?_ ?_ ?_ (.of_lasting hk.2) (State.issue_endsWaits u c x) <;> rw [hk.1]

theorem State.arbitrate_waitersJoined {s : State} (h : s.WaitersJoined) : s.arbitrate.WaitersJoined :=
  State.arbitrate_induct (P := fun u => u.WaitersJoined) s h fun u c x h _ _ _ => by
    refine waitersJoined_of h (fun m => ?_) (fun a k => ?_) (State.issue_endsWaits u c x)
    · rw [((State.issue_spec u c x).2.1 m).1]; exact ⟨rfl, rfl⟩
    · rw [((State.issue_spec u c x).1 a).1]; exact k

theorem State.arbitrate_areasWait {s : State} (h : AreasWait s) : AreasWait s.arbitrate :=
    ⟨fun a => State.arbitrate_areaWaits (h.1 a), State.arbitrate_waitersJoined h.2⟩

theorem State.arbitrate_holdsWait {s : State} (h : s.HoldsWait) : s.arbitrate.HoldsWait :=
  State.arbitrate_induct (P := fun u => u.HoldsWait) s h fun u c x h _ hx _ => by
    obtain ⟨h1, h2, h3, h4⟩ := State.issue_spec u c x
    refine holdsWait_of h (fun p hp hr => ⟨p, h4.subset hp, hr, rfl⟩) (fun m => ?_) (fun a e he => ?_) (fun t tr ht => ?_)
    · rcases (h2 m).2 with k | ⟨_, k⟩
      · exact .inl k
      · right
        cases hc : (u.issue c x).context m with
        | throughWait w st => cases st <;> rw [hc] at k <;> first | rfl | exact absurd rfl k
        | readWait w st => cases st <;> rw [hc] at k <;> first | rfl | exact absurd rfl k
        | _ => rfl
    · exact (Grows.of_lasting (h1 a).2).2 e he
    · rw [h3 t, ht]
      rintro rfl
      rw [(State.lowestFree_eq_some.mp hx).1] at ht; cases ht

theorem State.arbitrate_shutdownWaits {s : State} (h : s.ShutdownWaits) : s.arbitrate.ShutdownWaits :=
  State.arbitrate_induct (P := fun u => u.ShutdownWaits) s h fun u c x h _ hx _ => by
    obtain ⟨h1, h2, h3, h4⟩ := State.issue_spec u c x
    refine shutdownWaits_of h (by simp) (fun a => by rw [(h1 a).1]) (fun t tr ht => ?_)
    rw [h3 t, ht]
    rintro rfl
    rw [(State.lowestFree_eq_some.mp hx).1] at ht; cases ht

theorem State.arbitrate_testsMade {s : State} (h : s.TestsMade) : s.arbitrate.TestsMade :=
    ⟨fun a => State.arbitrate_areaWaits (h.1 a), State.arbitrate_waitersJoined h.2.1, State.arbitrate_holdsWait h.2.2.1,
    State.arbitrate_shutdownWaits h.2.2.2⟩

/-! ## Joins and waiters -/

/-- The master of an area names it back. -/
theorem joinsAgree_of_master {s : State} (hj : s.JoinsAgree) {a : AreaId} {m : MasterId} (h : (s.area a).master = some m) :
    ((s.master m).joinedArea = some a ∧ (s.master m).detachingArea = none ∧ ((s.area a).state = .joined ∨ (s.area a).state = .halted)) ∨
    ((s.master m).joinedArea = none ∧ (s.master m).detachingArea = some a ∧ (s.area a).state = .detaching) := by
  obtain ⟨j1, j2, j3, j4, j5⟩ := hj
  cases hs : (s.area a).state with
  | free => rw [(j5 a hs).1] at h; cases h
  | detaching =>
    obtain ⟨m', h1, h2⟩ := j4 a hs
    rw [h] at h1; cases h1
    right
    refine ⟨?_, h2, rfl⟩
    cases hx : (s.master m).joinedArea with
    | none => rfl
    | some x => rw [(j1 m x hx).1] at h2; cases h2
  | joined =>
    obtain ⟨m', h1, h2⟩ := j3 a (.inl hs)
    rw [h] at h1; cases h1
    exact .inl ⟨h2, (j1 m a h2).1, .inl rfl⟩
  | halted =>
    obtain ⟨m', h1, h2⟩ := j3 a (.inr hs)
    rw [h] at h1; cases h1
    exact .inl ⟨h2, (j1 m a h2).1, .inr rfl⟩

/-- A SYNC of the area's master waits on that area. -/
theorem syncArea_of_master {s : State} (hj : s.JoinsAgree) {a : AreaId} {m : MasterId}
    (h : (s.area a).master = some m) : s.syncArea m = some a := by
  unfold State.syncArea
  rcases joinsAgree_of_master hj h with ⟨h1, h2, _⟩ | ⟨h1, h2, _⟩ <;> simp [h1, h2]

/-- The area of a write in POSTING_WAIT is JOINED. -/
theorem joined_of_postingWait {s : State} (hj : s.JoinsAgree) (hw : s.WaitersJoined) {a : AreaId} {m : MasterId} {w}
    (h : (s.area a).master = some m)
    (hc : s.context m = .postingWait w) : (s.area a).state = .joined := by
  obtain ⟨b, h1, h2⟩ := hw.1 m w hc
  have := syncArea_of_master hj h
  simp [State.syncArea, h1] at this
  exact this ▸ h2

/-- A write that finds a slot leaves its master not waiting on the area, and every entry in place. -/
theorem State.decideJoined_spec {s : State} {m : MasterId} {a : AreaId} {w : WriteReq} (h : (s.area a).occupancy < (s.area a).size) :
    Context.awaitsArea ((s.decideJoined m a w).context m) = false ∧ (∀ n, n ≠ m → (s.decideJoined m a w).context n = s.context n) ∧
    (∀ n, ((s.decideJoined m a w).master n).joinedArea = (s.master n).joinedArea ∧ ((s.decideJoined m a w).master n).detachingArea =
      (s.master n).detachingArea) ∧
    (∀ b, (s.decideJoined m a w).area b = { s.area b with queue := ((s.decideJoined m a w).area b).queue } ∧ Grows (s.area b)
      ((s.decideJoined m a w).area b)) := by
  unfold State.decideJoined
  split
  · rename_i e ht
    obtain ⟨⟨q, hq⟩, _⟩ := State.mergeTarget_tail ht
    refine ⟨by simp [Context.awaitsArea], fun n hn => by simp [hn], fun n => ?_, fun b => ?_⟩
    · simp; by_cases hn : n = m
      · subst hn; simp
      · simp [hn]
    · simp
      by_cases hb : b = a
      · subst hb
        simp only [if_true, true_and]
        rw [hq]
        refine ⟨by rw [hq]; simp, fun x hx => ?_⟩
        rw [hq] at hx
        rcases List.mem_append.mp hx with hx | hx
        · exact ⟨x, by simp [hx], rfl, rfl⟩
        · rw [List.mem_singleton.mp hx]
          exact ⟨e.merged w, by simp, rfl, rfl⟩
      · simp only [hb, if_false]; exact ⟨by trivial, .refl _⟩
  · rw [if_pos h]
    split
    · refine ⟨by simp [Context.awaitsArea], fun n hn => by simp [hn], fun n => ?_, fun b => ?_⟩
      · simp; by_cases hn : n = m
        · subst hn; simp
        · simp [hn]
      · simp
        by_cases hb : b = a
        · subst hb
          simp only [if_true, true_and]
          exact ⟨by simp, fun e he => ⟨e, by simp [he], rfl, rfl⟩⟩
        · simp only [hb, if_false]; exact ⟨by trivial, .refl _⟩
    · refine ⟨by simp [Context.awaitsArea], fun n hn => by simp [hn], fun n => ?_, fun b => ?_⟩
      · simp; by_cases hn : n = m
        · subst hn; simp
        · simp [hn]
      · simp
        by_cases hb : b = a
        · subst hb
          simp only [if_true, true_and]
          exact ⟨by simp, fun e he => ⟨e, by simp [he], rfl, rfl⟩⟩
        · simp only [hb, if_false]; exact ⟨by trivial, .refl _⟩

/-! ## What a retirement sets off -/

/-- Where the news of a retirement starts: only this area may have a condition met. -/
structure Settling (s : State) (a : AreaId) : Prop where
  ja : s.JoinsAgree
  wj : s.WaitersJoined
  ot : ∀ b, b ≠ a → s.AreaWaits b
  nd : ∀ k, (s.area a).pendingOp = some (.drain k) → (s.area a).state ≠ .halted

/-- The write in POSTING_WAIT decided again takes a free slot, or none is free (R27). -/
theorem Settling.retryPosting (hJ : JoinsMove) {s : State} {a : AreaId} (p : Settling s a) : Settling (s.retryPosting a) a ∧ SlotAwaited
    (s.retryPosting a) a := by
  have hj : (s.retryPosting a).JoinsAgree := Moves.keeps (X := none) (hJ _) (State.retryPosting_moves s a) p.ja
  revert hj
  unfold State.retryPosting
  split
  · rename_i hm
    exact fun hj => ⟨p, fun m w _ k => by rw [hm] at k; cases k⟩
  · rename_i m hm
    split
    · rename_i w hc
      split
      · rename_i hx
        intro hj
        obtain ⟨d1, d2, d3, d4⟩ := State.decideJoined_spec (m := m) (w := w) hx.2
        generalize s.decideJoined m a w = u at *
        have he : EndsWaits s u := fun n => by
          by_cases hn : n = m
          · subst hn; exact .inr d1
          · exact .inl (d2 n hn)
        refine ⟨⟨hj, waitersJoined_of p.wj d3 (fun b k => by rw [(d4 b).1]; exact k) he, fun b hb => ?_, fun k => ?_⟩,
          fun n w' _ hn hc' => ?_⟩
        · exact areaWaits_of (p.ot b hb) (by rw [(d4 b).1]) (by rw [(d4 b).1]) (by rw [(d4 b).1]) (by rw [(d4 b).1]) (d4 b).2 he
        · rw [(d4 a).1]; exact p.nd k
        · rw [(d4 a).1] at hn
          rw [hm] at hn; cases hn
          rw [hc'] at d1; cases d1
      · rename_i hx
        intro _
        refine ⟨p, fun n w' h1 _ _ => ?_⟩
        simp only [not_and, AreaRec.occupancy, not_lt] at hx
        exact hx h1
    all_goals
      rename_i hc
      intro _
      refine ⟨p, fun n w' _ h2 h3 => ?_⟩
      rw [hm] at h2; cases h2
      rw [hc] at h3; cases h3

theorem State.answerSync_spec (s : State) (m : MasterId) : (∀ n, n ≠ m → (s.answerSync m).context n = s.context n) ∧
    (s.answerSync m).context m = .idle ∧
    (∀ n, ((s.answerSync m).master n).joinedArea = (s.master n).joinedArea ∧ ((s.answerSync m).master n).detachingArea =
      (s.master n).detachingArea) := by
  unfold State.answerSync State.answerDeferred
  split
  · refine ⟨fun n hn => by simp [hn], by simp, fun n => ?_⟩
    by_cases hn : n = m
    · subst hn; simp
    · simp [hn]
  · refine ⟨fun n hn => by simp [hn], by simp, fun n => ?_⟩
    by_cases hn : n = m
    · subst hn; simp
    · simp [hn]

theorem State.completeSync_spec (s : State) (m : MasterId) : EndsWaits s (s.completeSync m) ∧ (∀ a, (s.completeSync m).area a = s.area a) ∧
    (∀ n, ((s.completeSync m).master n).joinedArea = (s.master n).joinedArea ∧ ((s.completeSync m).master n).detachingArea =
      (s.master n).detachingArea) := by
  obtain ⟨h1, h2, h3⟩ := State.answerSync_spec s m
  have he : EndsWaits s (s.answerSync m) := fun n => by
    by_cases hn : n = m
    · subst hn; right; rw [h2]; rfl
    · exact .inl (h1 n hn)
  unfold State.completeSync
  split
  · split
    · exact ⟨.refl s, fun _ => rfl, fun _ => ⟨rfl, rfl⟩⟩
    · exact ⟨he, fun _ => by simp, h3⟩
  · exact ⟨he, fun _ => by simp, h3⟩
  · exact ⟨.refl s, fun _ => rfl, fun _ => ⟨rfl, rfl⟩⟩

/-- The SYNC tested again is answered, or waits for an entry before its mark (R92). -/
theorem Settling.settleSync (hJ : JoinsMove) {s : State} {a : AreaId} (p : Settling s a) (c1 : SlotAwaited s a) : Settling
    (s.settleSync a) a ∧ SlotAwaited (s.settleSync a) a ∧ SyncAwaited (s.settleSync a) a := by
  have hj : (s.settleSync a).JoinsAgree := Moves.keeps (X := none) (hJ _) (State.settleSync_moves s a) p.ja
  revert hj
  unfold State.settleSync
  split
  · rename_i hm
    exact fun hj => ⟨p, c1, fun m w k => by rw [hm] at k; cases k⟩
  · rename_i m hm
    intro hj
    obtain ⟨h1, h2, h3⟩ := State.completeSync_spec s m
    have hsa := syncArea_of_master p.ja hm
    have hc2 : ∀ mark, (s.completeSync m).context m = .syncWait mark → ∃ e ∈ (s.area a).queue, e.place < mark := by
      intro mark hk
      have hs := h1.sync hk
      unfold State.completeSync at hk
      simp only [hs, hsa] at hk
      split at hk
      · rename_i hb
        exact (AreaRec.holdsBefore_iff _ _).mp hb
      · rw [(State.answerSync_spec s m).2.1] at hk; cases hk
    generalize s.completeSync m = u at *
    refine ⟨⟨hj, waitersJoined_of p.wj h3 (fun b k => by rw [h2]; exact k) h1, fun b hb => areaWaits_of_area (p.ot b hb) (h2 b) h1,
      fun k => by rw [h2]; exact p.nd k⟩, fun n w k1 k2 k3 => ?_, fun n mark k1 k2 => ?_⟩
    · rw [h2] at k1 k2 ⊢; exact c1 n w k1 k2 (h1.post k3)
    · rw [h2] at k1 ⊢
      rw [hm] at k1; cases k1
      exact hc2 mark k2

/-- The DRAIN tested again ends, or waits (R130). -/
theorem Settling.endDrain (hJ : JoinsMove) {s : State} {a : AreaId} (p : Settling s a) (c1 : SlotAwaited s a) (c2 : SyncAwaited s a) :
    Settling (s.endDrain a) a ∧ SlotAwaited (s.endDrain a) a ∧ SyncAwaited (s.endDrain a) a ∧ DrainAwaited (s.endDrain a) a := by
  have hj : (s.endDrain a).JoinsAgree := Moves.keeps (X := none) (hJ _) (State.endDrain_moves s a) p.ja
  revert hj
  unfold State.endDrain
  split
  · rename_i mark hp
    split
    · rename_i hb
      intro hj
      refine ⟨p, c1, c2, fun k hk => ⟨p.nd k hk, ?_⟩⟩
      rw [hp] at hk; cases hk
      exact (AreaRec.holdsBefore_iff _ _).mp hb
    · intro hj
      refine ⟨⟨hj, ?_, fun b hb => areaWaits_of_area (p.ot b hb) (by simp [hb]) (.of_eq fun _ => by simp), fun k => ?_⟩, ?_, ?_, ?_⟩
      · exact waitersJoined_of p.wj (fun _ => by simp) (fun b k => by simp; split <;> simp_all) (.of_eq fun _ => by simp)
      · simp [AreaRec.opAfter]
      · intro m w; simp; exact c1 m w
      · intro m k; simp; exact c2 m k
      · intro k; simp [AreaRec.opAfter]
  all_goals
    rename_i hp
    intro hj
    exact ⟨p, c1, c2, fun k hk => by rw [hp] at hk; cases hk⟩

/-- The PURGE tested again ends, or waits (R114). -/
theorem Settling.endPurge (hJ : JoinsMove) {s : State} {a : AreaId} (p : Settling s a) (c1 : SlotAwaited s a) (c2 : SyncAwaited s a)
    (c3 : DrainAwaited s a) :
    Settling (s.endPurge a) a ∧ SlotAwaited (s.endPurge a) a ∧ SyncAwaited (s.endPurge a) a ∧ DrainAwaited (s.endPurge a) a ∧ PurgeAwaited
      (s.endPurge a) a := by
  have hj : (s.endPurge a).JoinsAgree := Moves.keeps (X := none) (hJ _) (State.endPurge_moves s a) p.ja
  revert hj
  unfold State.endPurge
  split
  · rename_i mark hp
    split
    · rename_i hb
      intro hj
      refine ⟨p, c1, c2, c3, fun k hk => ?_⟩
      rw [hp] at hk; cases hk
      exact (AreaRec.holdsBefore_iff _ _).mp hb
    · intro hj
      have hq : ((s.finishPurge a).area a).queue = (s.area a).queue := State.finishPurge_queue s a a
      have hctx : ∀ n, (s.finishPurge a).context n = s.context n := fun n => by
        unfold State.finishPurge State.beginDetach; dsimp only
        (repeat' split) <;> simp [State.context] <;> (try split) <;> simp_all
      have hoth : ∀ b, b ≠ a → (s.finishPurge a).area b = s.area b := fun b hb => by
        unfold State.finishPurge State.beginDetach; dsimp only
        (repeat' split) <;> simp [hb]
      have hop : ((s.finishPurge a).area a).pendingOp = some .detach ∨ ((s.finishPurge a).area a).pendingOp = none := by
        unfold State.finishPurge State.beginDetach; dsimp only
        have h0 : (s.area a).opAfter = some .detach ∨ (s.area a).opAfter = none := by
          unfold AreaRec.opAfter; split <;> simp
        (repeat' split) <;> simp [h0]
      have hma : ((s.finishPurge a).area a).master = (s.area a).master := by
        unfold State.finishPurge State.beginDetach; dsimp only
        (repeat' split) <;> simp
      have hsz : ((s.finishPurge a).area a).size = (s.area a).size := by
        unfold State.finishPurge State.beginDetach; dsimp only
        (repeat' split) <;> simp
      have hst : (s.area a).state = .joined → ((s.finishPurge a).area a).state = .joined := by
        intro h
        unfold State.finishPurge State.beginDetach; simp [h]
      have hnp : (s.area a).state = .halted → ∀ m, (s.area a).master = some m → ∀ w, s.context m ≠ .postingWait w := by
        intro h m hm w hw
        have := joined_of_postingWait p.ja p.wj hm hw
        rw [h] at this; cases this
      have hmm : ∀ n, (((s.finishPurge a).master n).joinedArea = (s.master n).joinedArea ∧ ((s.finishPurge a).master n).detachingArea =
        (s.master n).detachingArea) ∨
          ((s.area a).state = .halted ∧ (s.area a).master = some n ∧ ((s.finishPurge a).master n).detachingArea = some a) := by
        intro n
        unfold State.finishPurge State.beginDetach; dsimp only
        simp only [State.raise_area, State.setArea_area, if_true]
        split
        · rename_i hh
          split
          · split
            · left; simp
            · rename_i m hm
              by_cases hn : n = m
              · subst hn; right; exact ⟨hh, hm, by simp⟩
              · left; simp [hn]
          · left; simp
        · left; simp
      have he : EndsWaits s (s.finishPurge a) := .of_eq hctx
      generalize s.finishPurge a = u at *
      refine ⟨⟨hj, ⟨fun n w k => ?_, fun n k hk => ?_⟩, fun b hb => areaWaits_of_area (p.ot b hb) (hoth b hb) he, fun k hk => ?_⟩, ?_, ?_,
        ?_, ?_⟩
      · rw [hctx] at k
        obtain ⟨b, g1, g2⟩ := p.wj.1 n w k
        have hb : (u.area b).state = .joined := by
          by_cases hb : b = a
          · subst hb; exact hst g2
          · rw [hoth b hb]; exact g2
        rcases hmm n with g | ⟨g3, g4, _⟩
        · exact ⟨b, by rw [g.1]; exact g1, hb⟩
        · exact absurd k (hnp g3 n g4 w)
      · rw [hctx] at hk
        obtain ⟨b, g1⟩ := p.wj.2 n k hk
        rcases hmm n with g | ⟨_, _, g⟩
        · exact ⟨b, by rw [g.1, g.2]; exact g1⟩
        · exact ⟨a, .inr g⟩
      · rcases hop with g | g <;> rw [g] at hk <;> cases hk
      · intro n w k1 k2 k3
        rw [hma] at k2; rw [hctx] at k3
        have := c1 n w (joined_of_postingWait p.ja p.wj k2 k3) k2 k3
        rw [hsz, hq]; exact this
      · intro n k; rw [hma, hctx, hq]; exact c2 n k
      · intro k hk; rcases hop with g | g <;> rw [g] at hk <;> cases hk
      · intro k hk; rcases hop with g | g <;> rw [g] at hk <;> cases hk
  all_goals
    rename_i hp
    intro hj
    exact ⟨p, c1, c2, c3, fun k hk => by rw [hp] at hk; cases hk⟩

/-- The DETACHING area tested again is FREE, or holds an entry (R17). -/
theorem Settling.endDetach {s : State} {a : AreaId} (p : Settling s a) (c1 : SlotAwaited s a) (c2 : SyncAwaited s a)
    (c3 : DrainAwaited s a) (c4 : PurgeAwaited s a) : AreasWait (s.endDetach a) := by
  by_cases hx : (s.area a).state = .detaching ∧ (s.area a).queue = []
  · have hoth : ∀ b, b ≠ a → (s.endDetach a).area b = s.area b := fun b hb => State.endDetach_area_of_ne s a b hb
    have hctx : ∀ n, (s.endDetach a).context n = s.context n := State.endDetach_context s a
    have he : EndsWaits s (s.endDetach a) := .of_eq hctx
    have har : (s.endDetach a).area a = (s.area a).detached := by
      unfold State.endDetach; rw [if_pos hx]; dsimp only; split <;> simp
    have hmm : ∀ n, (((s.endDetach a).master n).joinedArea = (s.master n).joinedArea) ∧
        (((s.endDetach a).master n).detachingArea = (s.master n).detachingArea ∨ (s.area a).master = some n) := by
      intro n
      unfold State.endDetach; rw [if_pos hx]; dsimp only; split
      · simp
      · rename_i m hm
        by_cases hn : n = m
        · subst hn; simp [hm]
        · simp [hn]
    have hop : ∀ k, (s.area a).detached.pendingOp ≠ some (.drain k) ∧ (s.area a).detached.pendingOp ≠ some (.purge k) := by
      intro k
      unfold AreaRec.detached; dsimp only
      split
      · simp
      · refine ⟨fun h => ?_, fun h => ?_⟩
        · obtain ⟨_, e, he, _⟩ := c3 k h; rw [hx.2] at he; cases he
        · obtain ⟨e, he, _⟩ := c4 k h; rw [hx.2] at he; cases he
    have hfree : (s.area a).detached.state = .free ∧ (s.area a).detached.master = none := by
      unfold AreaRec.detached; dsimp only; split <;> simp
    have hns : ∀ n, (s.area a).master = some n → ∀ k, s.context n ≠ .syncWait k := fun n hn k hk => by
      obtain ⟨e, he, _⟩ := c2 n k hn hk; rw [hx.2] at he; cases he
    generalize s.endDetach a = u at *
    refine ⟨fun b => ?_, fun n w k => ?_, fun n k hk => ?_⟩
    · by_cases hb : b = a
      · subst hb
        refine ⟨fun m w k => ?_, fun m k k' => ?_, fun k hk => ?_, fun k hk => ?_, fun k => ?_⟩
        · rw [har, hfree.1] at k; cases k
        · rw [har, hfree.2] at k'; cases k'
        · rw [har] at hk; exact absurd hk (hop k).1
        · rw [har] at hk; exact absurd hk (hop k).2
        · rw [har, hfree.1] at k; cases k
      · exact areaWaits_of_area (p.ot b hb) (hoth b hb) he
    · rw [hctx] at k
      obtain ⟨b, g1, g2⟩ := p.wj.1 n w k
      refine ⟨b, by rw [(hmm n).1]; exact g1, ?_⟩
      rw [hoth b]; exact g2
      rintro rfl; rw [hx.1] at g2; cases g2
    · rw [hctx] at hk
      obtain ⟨b, g1⟩ := p.wj.2 n k hk
      refine ⟨b, ?_⟩
      rw [(hmm n).1]
      rcases (hmm n).2 with g | g
      · rw [g]; exact g1
      · exact absurd hk (hns n g k)
  · have : s.endDetach a = s := by unfold State.endDetach; rw [if_neg hx]
    rw [this]
    refine ⟨fun b => ?_, p.wj⟩
    by_cases hb : b = a
    · subst hb; exact ⟨c1, c2, c3, c4, fun h1 h2 => hx ⟨h1, h2⟩⟩
    · exact p.ot b hb

/-- After the news of a retirement every area waits (R12). -/
theorem Settling.settleArea (hJ : JoinsMove) {s : State} {a : AreaId} (p : Settling s a) : AreasWait (s.settleArea a) := by
  obtain ⟨p, c1⟩ := Settling.retryPosting hJ p
  obtain ⟨p, c1, c2⟩ := Settling.settleSync hJ p c1
  obtain ⟨p, c1, c2, c3⟩ := Settling.endDrain hJ p c1 c2
  obtain ⟨p, c1, c2, c3, c4⟩ := Settling.endPurge hJ p c1 c2 c3
  exact Settling.endDetach p c1 c2 c3 c4

/-- After the release of held requests the others still wait (R48). -/
theorem State.releaseHolds_holdsWait (s : State) : s.releaseHolds.HoldsWait := by
  intro p hp hr
  simp only [State.releaseHolds, List.mem_map] at hp
  obtain ⟨q, hq, rfl⟩ := hp
  split at hr
  · cases hr
  · rename_i hc
    rw [if_neg hc]
    refine ⟨fun r h => ?_, fun w h => ?_⟩
    · have h : s.context q.master = .readWait r .inHold := h
      simp only [h, State.lineClear, Bool.and_eq_true, Bool.not_eq_true', not_and_or] at hc
      rcases hc with hc | hc
      · exact .inl ((State.lineLive_iff s _).mp (by simpa using hc))
      · exact .inr ((State.lineBusy_iff s _).mp (by simpa using hc))
    · have h : s.context q.master = .throughWait w .inHold := h
      simp only [h, State.lineClear, Bool.and_eq_true, Bool.not_eq_true', not_and_or] at hc
      rcases hc with hc | hc
      · exact .inl ((State.lineLiveBefore_iff s _ _).mp (by simpa using hc))
      · exact .inr ((State.lineBusy_iff s _).mp (by simpa using hc))

theorem State.softResetDone_iff (s : State) : s.softResetDone = true ↔ (∀ a, (s.area a).state = .free) ∧ ∀ t, (s.tag t).isBusy = false := by
  simp [State.softResetDone]

/-- At the end of a soft reset no master waits on an area (R141). -/
theorem State.finishSoftReset_areasWait {s : State} (hj : s.JoinsAgree) (hw : s.WaitersJoined)
    (hd : s.softResetDone = true) : AreasWait s.finishSoftReset := by
  have hfree := ((State.softResetDone_iff s).mp hd).1
  have hctx : ∀ m, s.finishSoftReset.context m = s.context m := fun m => rfl
  have hn : ∀ m, Context.awaitsArea (s.context m) = false := by
    intro m
    cases hc : s.context m with
    | postingWait w => obtain ⟨a, _, h⟩ := hw.1 m w hc; rw [hfree] at h; cases h
    | syncWait k =>
      obtain ⟨a, h | h⟩ := hw.2 m k hc
      · obtain ⟨_, _, h⟩ := hj.1 m a h; rw [hfree] at h; simp at h
      · obtain ⟨_, h⟩ := hj.2.1 m a h; rw [hfree] at h; simp at h
    | _ => rfl
  refine ⟨fun a => ?_, fun m w k => ?_, fun m w k => ?_⟩
  · have := State.finishSoftReset_area s a
    have h1 : (s.finishSoftReset.area a).state = .free ∧ (s.finishSoftReset.area a).master = none ∧
      (s.finishSoftReset.area a).pendingOp = none := by
      rw [this]; exact ⟨rfl, rfl, rfl⟩
    refine ⟨fun m w k => ?_, fun m k k' => ?_, fun k hk => ?_, fun k hk => ?_, fun k => ?_⟩
    · rw [h1.1] at k; cases k
    · rw [h1.2.1] at k'; cases k'
    · rw [h1.2.2] at hk; cases hk
    · rw [h1.2.2] at hk; cases hk
    · rw [h1.1] at k; cases k
  · rw [hctx] at k; have := hn m; rw [k] at this; cases this
  · rw [hctx] at k; have := hn m; rw [k] at this; cases this

/-- After the test of the soft reset nothing is left to test, if areas and held requests wait (R141). -/
theorem State.testSoftReset_testsMade {s : State} (hj : s.JoinsAgree) (ht : AreasWait s)
    (hh : s.HoldsWait) : s.testSoftReset.TestsMade := by
  unfold State.testSoftReset
  split
  · rename_i hd
    obtain ⟨h1, h2⟩ := State.finishSoftReset_areasWait hj ht.2 hd.2
    refine ⟨h1, h2, ?_, fun k => by cases k⟩
    obtain ⟨hf, hb⟩ := (State.softResetDone_iff s).mp hd.2
    intro p hp hr
    have := hh p hp hr
    refine ⟨fun r g => ?_, fun w g => ?_⟩
    · rcases this.1 r g with ⟨a, e, he, _⟩ | ⟨t, tr, htr, _⟩
      · rw [(hj.2.2.2.2 a (hf a)).2] at he; cases he
      · have := hb t; rw [TagState.transaction_eq_some.mp htr] at this; cases this
    · rcases this.2 w g with ⟨a, e, he, _⟩ | ⟨t, tr, htr, _⟩
      · rw [(hj.2.2.2.2 a (hf a)).2] at he; cases he
      · have := hb t; rw [TagState.transaction_eq_some.mp htr] at this; cases this
  · rename_i hd
    refine ⟨ht.1, ht.2, hh, fun k => ?_⟩
    have hd : ¬ s.softResetDone = true := fun h => hd ⟨k, h⟩
    rw [State.softResetDone_iff] at hd
    by_contra hc
    push Not at hc
    exact hd ⟨hc.1, fun t => by simpa using hc.2 t⟩

/-- At the end of a change nothing is left to test, if the areas wait. -/
theorem State.conclude_testsMade (hJ : JoinsMove) {s : State} (hj : s.JoinsAgree) (ht : AreasWait s) (n : Nat) :
    (s.conclude n).TestsMade := by
  unfold State.conclude
  refine State.arbitrate_testsMade (State.testSoftReset_testsMade (s := s.releaseHolds.orderAnswers n) ?_
    (areasWait_of ht (fun _ => by simp) (fun _ => by simp) (.of_eq fun _ => by simp)) ?_)
  · exact hJ _ _ _ (.order s.releaseHolds n (X := none)) (Moves.keeps (X := none) (hJ _) (State.releaseHolds_moves s) hj)
  · exact State.releaseHolds_holdsWait s

/-! ## The handling of a result -/
theorem State.answerStrict_endsWaits (s : State) (a : AreaId) (p : Nat) (b : AnswerBody) : EndsWaits s (s.answerStrict a p b) := fun n => by
  rcases State.answerStrict_context_or s a p b n with h | ⟨_, _, h⟩
  · exact .inl h
  · right; rw [h]; rfl

theorem State.answer_endsWaits (s : State) (m : MasterId) (b : AnswerBody) : EndsWaits s (s.answer m b) := fun n => by
  by_cases h : n = m
  · subst h; right; simp [Context.awaitsArea]
  · left; simp [h]

/-- What the handling of a result may do before its news: it acts on one area, keeps the joins, and begins no wait; a halt answers that
area's waiters. -/
structure Handles (s u : State) (a : AreaId) : Prop where
  en : EndsWaits s u
  ot : ∀ b, b ≠ a → u.area b = s.area b
  ms : ∀ m, (u.master m).joinedArea = (s.master m).joinedArea ∧ (u.master m).detachingArea = (s.master m).detachingArea
  st : (u.area a).state = (s.area a).state ∨ (u.area a).state = .halted ∧ (s.area a).state = .joined ∧
    (∀ m, (s.area a).master = some m → Context.awaitsArea (u.context m) = false)
  op : ∀ k, (u.area a).pendingOp = some (.drain k) → (s.area a).pendingOp = some (.drain k) ∧ (u.area a).state = (s.area a).state

theorem Handles.trans {s u v : State} {a} (h : Handles s u a) (k : Handles u v a)
    (hm : (u.area a).master = (s.area a).master) : Handles s v a where
  en := h.en.trans k.en
  ot b hb := (k.ot b hb).trans (h.ot b hb)
  ms m := ⟨(k.ms m).1.trans (h.ms m).1, (k.ms m).2.trans (h.ms m).2⟩
  st := by
    rcases h.st with h1 | ⟨h1, h2, h3⟩
    · rcases k.st with k1 | ⟨k1, k2, k3⟩
      · exact .inl (k1.trans h1)
      · exact .inr ⟨k1, h1 ▸ k2, fun m g => k3 m (hm ▸ g)⟩
    · rcases k.st with k1 | ⟨k1, k2, k3⟩
      · refine .inr ⟨k1.trans h1, h2, fun m g => ?_⟩
        rcases k.en m with e | e
        · rw [e]; exact h3 m g
        · exact e
      · rw [h1] at k2; cases k2
  op x g := by
    obtain ⟨g1, g2⟩ := k.op x g
    obtain ⟨f1, f2⟩ := h.op x g1
    exact ⟨f1, g2.trans f2⟩

theorem Handles.settling {s u : State} {a} (h : Handles s u a) (hj : s.JoinsAgree) (hj' : u.JoinsAgree)
    (ht : AreasWait s) : Settling u a where
  ja := hj'
  ot b hb := areaWaits_of_area (ht.1 b) (h.ot b hb) h.en
  nd k g := by obtain ⟨g1, g2⟩ := h.op k g; rw [g2]; exact ((areaWaits_iff s a).mp (ht.1 a)).2.2.1 k g1 |>.1
  wj := by
    refine ⟨fun m w k => ?_, fun m mark k => ?_⟩
    · obtain ⟨b, h1, h2⟩ := ht.2.1 m w (h.en.post k)
      refine ⟨b, by rw [(h.ms m).1]; exact h1, ?_⟩
      by_cases hb : b = a
      · subst hb
        rcases h.st with g | ⟨_, _, g⟩
        · rw [g]; exact h2
        · have := g m (hj.1 m b h1).2.1; rw [k] at this; cases this
      · rw [h.ot b hb]; exact h2
    · obtain ⟨b, h1⟩ := ht.2.2 m mark (h.en.sync k)
      exact ⟨b, by rw [(h.ms m).1, (h.ms m).2]; exact h1⟩

theorem Handles.refl (s : State) (a : AreaId) : Handles s s a :=
    ⟨.refl s, fun _ _ => rfl, fun _ => ⟨rfl, rfl⟩, .inl rfl, fun _ h => ⟨h, rfl⟩⟩

theorem Handles.same {s u : State} {a : AreaId} (he : EndsWaits s u) (ha : ∀ b, u.area b = s.area b)
    (hm : ∀ m, (u.master m).joinedArea = (s.master m).joinedArea ∧ (u.master m).detachingArea =
      (s.master m).detachingArea) : Handles s u a :=
  ⟨he, fun b _ => ha b, hm, .inl (by rw [ha]), fun k h => ⟨by rw [← ha]; exact h, by rw [ha]⟩⟩

theorem Handles.queue (s : State) (a : AreaId) (q : List Entry) : Handles s (s.setQueue a q) a :=
  ⟨.of_eq fun _ => by simp, fun b hb => by simp [hb], fun _ => by simp, .inl (by simp), fun k h => by simpa using h⟩

theorem Handles.strict (s : State) (a : AreaId) (p : Nat) (b : AnswerBody) : Handles s (s.answerStrict a p b) a := by
  refine .same (State.answerStrict_endsWaits s a p b) (fun _ => by simp) fun m => ?_
  unfold State.answerStrict; (repeat' split)
  · simp
  · rename_i n _ _
    by_cases h : m = n
    · subst h; simp
    · simp [h]
  · simp

theorem Handles.charge (s : State) (a : AreaId) (m : MasterId) (k : Nat) (l : Line) (c : FaultCause) : Handles s (s.charge m k l c) a := by
  refine .same (.of_eq fun n => ?_) (fun _ => by simp) fun n => ?_
  · simp [State.charge]; rintro rfl; rfl
  · simp [State.charge]; by_cases h : n = m
    · subst h; simp
    · simp [h]

theorem Handles.record (s : State) (a : AreaId) (r : FaultRecord) : Handles s (s.makeRecord r) a :=
  .same (.of_eq fun _ => by simp) (fun _ => by simp) (fun _ => by simp)

theorem Handles.recordFailure (s : State) (a : AreaId) (m : MasterId) (e : Entry) (how : Failure) : Handles s
    (s.recordFailure a m e how) a := by
  unfold State.recordFailure
  dsimp only
  have h1 : Handles s ((s.makeRecord ((s.area a).failureRecord a m e how.cause)).removeEntry a e.place) a :=
    (Handles.record s a _).trans (Handles.queue _ a _) (by simp)
  split
  · exact h1.trans (Handles.strict _ a _ _) (by simp [State.removeEntry])
  · exact h1.trans (Handles.charge _ a _ _ _ _) (by simp [State.removeEntry])

theorem Handles.drop (s : State) (a : AreaId) (c : FaultCause) (d : Entry → Bool) : Handles s (s.dropEntries a c d) a := by
  unfold State.dropEntries
  split
  · exact ((Handles.queue s a _).trans (Handles.record _ a _) (by simp)).trans (Handles.charge _ a _ _ _ _) (by simp)
  · exact .refl s a

theorem Handles.halt {s : State} {a : AreaId} (h : (s.area a).state = .joined) : Handles s (s.haltArea a) a := by
  have hrec : ((s.haltArea a).area a).state = .halted ∧ ∀ k, ((s.haltArea a).area a).pendingOp ≠ some (.drain k) := by
    rw [State.haltArea_area, if_pos rfl]
    unfold AreaRec.haltedRec; dsimp only
    split
    · simp
    · rename_i hx; exact ⟨rfl, fun k hk => hx k hk⟩
  let v := ((s.setArea a { s.area a with state := .halted }).raise .halt).cutDrain a
  have hv : ∀ n, v.context n = s.context n := fun n => by simp [v]
  have hvm : (v.area a).master = (s.area a).master := by
    simp [v, State.cutDrain_area]; split <;> rfl
  have hmm : ∀ n, ((s.haltArea a).master n).joinedArea = (s.master n).joinedArea ∧ ((s.haltArea a).master n).detachingArea =
    (s.master n).detachingArea := by
    intro n
    have hx : s.haltArea a = ((v.removeStrict a).haltMaster a).refuseHolds a := rfl
    have h1 : ((v.removeStrict a).master n).joinedArea = (s.master n).joinedArea ∧ ((v.removeStrict a).master n).detachingArea =
      (s.master n).detachingArea := by
      unfold State.removeStrict
      refine foldl_keeps (P := fun u : State => (u.master n).joinedArea = (s.master n).joinedArea ∧ (u.master n).detachingArea =
        (s.master n).detachingArea) _ _ _ (by simp [v]) fun u e _ h => ?_
      have := (Handles.strict u a e.place (.error .halted)).ms n
      exact ⟨this.1.trans h.1, this.2.trans h.2⟩
    have h2 : (((v.removeStrict a).haltMaster a).master n).joinedArea = ((v.removeStrict a).master n).joinedArea ∧
      (((v.removeStrict a).haltMaster a).master n).detachingArea = ((v.removeStrict a).master n).detachingArea := by
      generalize v.removeStrict a = x
      unfold State.haltMaster State.answerHaltTerms State.answerDeferred
      split
      · simp
      · rename_i m _
        by_cases hn : n = m
        · subst hn; split
          · simp
          · split <;> simp
          all_goals simp
        · split
          · simp [hn]
          · split <;> simp [hn]
          all_goals simp
    have h3 := State.refuseHolds_master_eq ((v.removeStrict a).haltMaster a) a n
    rw [hx, h3]
    exact ⟨h2.1.trans h1.1, h2.2.trans h1.2⟩
  have he2 : ∀ n, ((v.removeStrict a).context n = v.context n) ∨ (v.removeStrict a).context n = .idle := fun n => by
    rcases State.removeStrict_context_or v a n with g | ⟨_, _, g⟩
    · exact .inl g
    · exact .inr g
  have hm2 : ((v.removeStrict a).area a).master = (s.area a).master := by rw [State.removeStrict_area, if_pos rfl]; exact hvm
  have he : EndsWaits s (s.haltArea a) ∧ ∀ m, (s.area a).master = some m → Context.awaitsArea ((s.haltArea a).context m) = false := by
    have hx : s.haltArea a = ((v.removeStrict a).haltMaster a).refuseHolds a := rfl
    rw [hx]
    have hr : ∀ n, (((v.removeStrict a).haltMaster a).refuseHolds a).context n =
      ((v.removeStrict a).haltMaster a).context n ∨ Context.awaitsArea
      ((((v.removeStrict a).haltMaster a).refuseHolds a).context n) = false := by
      intro n
      rw [State.refuseHolds_context]
      split
      · exact .inr rfl
      · exact .inl rfl
    have hM : ∀ n, ((v.removeStrict a).haltMaster a).context n = (v.removeStrict a).context n ∨ Context.awaitsArea
      (((v.removeStrict a).haltMaster a).context n) = false := by
      intro n; rw [State.haltMaster_context_eq]; split
      · exact .inr rfl
      · exact .inl rfl
    constructor
    · refine (EndsWaits.trans ?_ hM).trans hr
      intro n
      rcases he2 n with g | g
      · rw [g, hv]; exact .inl rfl
      · rw [g]; exact .inr rfl
    · intro m hm
      rcases hr m with g | g
      · rw [g, State.haltMaster_context_eq, hm2]
        split
        · rfl
        · rename_i hn
          simp only [hm, true_and, not_or, not_exists] at hn
          cases hc : (v.removeStrict a).context m with
          | postingWait w => exact absurd hc (hn.1 w)
          | syncWait w => exact absurd hc (hn.2 w)
          | _ => rfl
      · exact g
  exact ⟨he.1, fun b hb => by rw [State.haltArea_area, if_neg hb], hmm, .inr ⟨hrec.1, h, he.2⟩, fun k hk => absurd hk (hrec.2 k)⟩

theorem Handles.final (s : State) (a : AreaId) (e : Entry) (how : Failure) : Handles s (s.finalFailure a e how) a := by
  unfold State.finalFailure
  split
  · exact Handles.queue s a _
  · rename_i m hm
    have h1 := Handles.recordFailure s a m e how
    have hm1 : ((s.recordFailure a m e how).area a).master = (s.area a).master := by
      unfold State.recordFailure; dsimp only; split <;> simp [State.removeEntry]
    have h2 : Handles (s.recordFailure a m e how) ((s.recordFailure a m e how).applyPolicy a) a := by
      unfold State.applyPolicy
      split
      · exact .refl _ a
      · split
        · rename_i h; exact Handles.halt h
        · exact .refl _ a
      · exact Handles.drop _ a _ _
    have h3 : Handles ((s.recordFailure a m e how).applyPolicy a) (((s.recordFailure a m e how).applyPolicy a).escalateArea a) a :=
      .same (.of_eq fun _ => by simp) (fun _ => by simp) (fun _ => by simp)
    have hm2 : (((s.recordFailure a m e how).applyPolicy a).area a).master = ((s.recordFailure a m e how).area a).master := by
      unfold State.applyPolicy
      (repeat' split)
      · rfl
      · rw [State.haltArea_area, if_pos rfl]; unfold AreaRec.haltedRec; dsimp only; split <;> rfl
      · rfl
      · unfold State.dropEntries; dsimp only; split <;> simp
    exact (h1.trans h2 hm1).trans h3 (hm2.trans hm1)

theorem State.reissueEntry_areasWait {s : State} (ht : AreasWait s) (a : AreaId) (e : Entry) : AreasWait (s.reissueEntry a e) := by
  have hk : ∀ b, (s.reissueEntry a e).area b = { s.area b with queue := ((s.reissueEntry a e).area b).queue } ∧ Grows (s.area b)
    ((s.reissueEntry a e).area b) := by
    intro b
    unfold State.reissueEntry
    rw [State.updateEntry_area]
    by_cases hb : b = a
    · subst hb
      rw [if_pos rfl]
      refine ⟨rfl, .of_lasting ?_⟩
      simp only [List.map_map]
      refine List.map_congr_left fun x _ => ?_
      simp only [Function.comp]; split <;> rfl
    · rw [if_neg hb]; exact ⟨rfl, .refl _⟩
  have hc : ∀ n, (s.reissueEntry a e).context n = s.context n := fun _ => rfl
  have hm : ∀ n, (s.reissueEntry a e).master n = s.master n := fun _ => rfl
  generalize s.reissueEntry a e = u at *
  exact ⟨fun b => areaWaits_of (ht.1 b) (by rw [(hk b).1]) (by rw [(hk b).1]) (by rw [(hk b).1]) (by rw [(hk b).1]) (hk b).2 (.of_eq hc),
    waitersJoined_of ht.2 (fun n => by rw [hm]; exact ⟨rfl, rfl⟩) (fun b k => by rw [(hk b).1]; exact k) (.of_eq hc)⟩

/-- After the handling of a result every area waits. -/
theorem State.handResult_areasWait (hJ : JoinsMove) {s : State} (hj : s.JoinsAgree) (ht : AreasWait s) (user : TagUser) (r : MemResult)
    (data : LineData) : AreasWait (s.handResult user r data) := by
  have hset : ∀ {u : State} {a : AreaId}, Handles s u a → u.JoinsAgree → AreasWait (u.settleArea a) := fun ho hj' => Settling.settleArea hJ
    (ho.settling hj hj' ht)
  unfold State.handResult
  split
  · rename_i a place
    split
    · exact ht
    · rename_i e he
      split
      · unfold State.retireDone
        dsimp only
        have h1 : Handles s (s.removeEntry a e.place) a := Handles.queue s a _
        have j1 : (s.removeEntry a e.place).JoinsAgree := Moves.keeps (hJ _) (s.removeEntry_moves a e.place) hj
        split
        · exact hset (h1.trans (Handles.strict _ a _ _) (by simp [State.removeEntry]))
            (Moves.keeps (X := none) (hJ _) (State.answerStrict_moves _ a _ _) j1)
        · exact hset h1 j1
      · rename_i how
        unfold State.attemptFailed
        split
        · refine hset (Handles.final s a e how) ?_
          exact Moves.keeps (hJ _) (State.finalFailure_moves s a e how) hj
        · split
          · unfold State.removeHaltedStrict
            have h1 : Handles s (s.removeEntry a e.place) a := Handles.queue s a _
            have j1 : (s.removeEntry a e.place).JoinsAgree := Moves.keeps (hJ _) (s.removeEntry_moves a e.place) hj
            exact hset (h1.trans (Handles.strict _ a _ _) (by simp [State.removeEntry]))
              (Moves.keeps (X := none) (hJ _) (State.answerStrict_moves _ a _ _) j1)
          · exact State.reissueEntry_areasWait ht a e
  · rename_i m
    have hans : ∀ (u : State) b, AreasWait u → AreasWait (u.answer m b) := fun u b h => areasWait_of h (fun _ => by simp) (fun n => by
      by_cases h : n = m
      · subst h; simp
      · simp [h]) (State.answer_endsWaits u m b)
    split
    · unfold State.requestDone; (repeat' split) <;> first | exact ht | exact hans _ _ ht
    · unfold State.requestFailed; (repeat' split)
      · refine hans _ _ (areasWait_of ht (fun _ => by simp) (fun _ => by simp) (.of_eq fun _ => by simp))
      · exact hans _ _ ht
      all_goals exact ht

/-- Nothing is left to test after a change that keeps the areas, the joins, the mode and the BUSY tags and ends waits alone. -/
theorem testsMade_of {s u : State} (h : s.TestsMade) (ha : ∀ a, u.area a = s.area a)
    (hm : ∀ m, (u.master m).joinedArea = (s.master m).joinedArea ∧ (u.master m).detachingArea = (s.master m).detachingArea)
    (hc : ∀ m, u.context m = s.context m ∨ Context.awaitsArea (u.context m) = false ∧ (u.context m).heldLine = none)
    (hh : ∀ p ∈ u.holdList, p.released = false → ∃ p' ∈ s.holdList, p'.released = false ∧ p'.master = p.master)
    (ht : ∀ t tr, s.tag t = .busy tr → u.tag t = .busy tr) (hmode : u.mode = s.mode) : u.TestsMade := by
  obtain ⟨h1, h2⟩ := areasWait_of ⟨h.1, h.2.1⟩ ha hm fun m => (hc m).imp id fun h => h.1
  refine ⟨h1, h2, holdsWait_of h.2.2.1 hh (fun m => (hc m).imp id fun h => h.2) (fun a e he => ⟨e, by rw [ha]; exact he, rfl, rfl⟩) ht,
    shutdownWaits_of h.2.2.2 hmode (fun a => by rw [ha]) ht⟩

theorem testsMade_of_same {s u : State} (h : s.TestsMade) (ha : u.areas = s.areas) (hm : u.masters = s.masters)
    (hh : u.holdList = s.holdList)
    (ht : u.tags = s.tags) (hmode : u.mode = s.mode) : u.TestsMade :=
  testsMade_of h (fun a => by simp [State.area, ha]) (fun m => by simp [State.master, hm])
    (fun m => .inl (by simp [State.context, State.master, hm]))
    (fun p hp hr => ⟨p, hh ▸ hp, hr, rfl⟩) (fun t tr h => by simpa [State.tag, ht] using h) hmode

theorem State.answer_testsMade {s : State} (h : s.TestsMade) (m : MasterId) (b : AnswerBody) : (s.answer m b).TestsMade := by
  refine testsMade_of h (fun _ => by simp) (fun n => ?_) (fun n => ?_) (fun p hp hr => ⟨p, by simpa using hp, hr, rfl⟩)
    (fun t tr h => by simpa using h) (by simp)
  · by_cases hn : n = m
    · subst hn; simp
    · simp [hn]
  · by_cases hn : n = m
    · subst hn; right; simp [Context.awaitsArea, Context.heldLine]
    · left; simp [hn]

theorem State.enterHold_areasWait {s : State} (m : MasterId) (c : Context) (hc : Context.awaitsArea c = false)
    (h : AreasWait s) : AreasWait ((s.setContext m c).enterHold m) := by
  have hset : AreasWait (s.setContext m c) := areasWait_of h (fun _ => by simp) (fun n => by
    by_cases hn : n = m
    · subst hn; simp
    · simp [hn]) (fun n => by
    by_cases hn : n = m
    · subst hn; right; simp [hc]
    · left; simp [hn])
  have hj : ∀ b, AreasWait ((s.setContext m c).joinHold m b) := fun b => areasWait_of hset (fun _ => rfl) (fun _ => ⟨rfl, rfl⟩)
    (.of_eq fun _ => rfl)
  unfold State.enterHold
  dsimp only
  split
  · split
    · exact State.arbitrate_areasWait (hj true)
    · refine areasWait_of (State.arbitrate_areasWait (hj true)) (fun _ => by simp) (fun n => by
        by_cases hn : n = m
        · subst hn; simp
        · simp [hn]) (fun n => ?_)
      by_cases hn : n = m
      · subst hn; right; simp [Context.awaitsArea]
      · left; simp [hn]
  · split
    · exact State.arbitrate_areasWait (hj false)
    · exact areasWait_of hset (fun _ => by simp) (fun n => by
        by_cases hn : n = m
        · subst hn; simp
        · simp [hn]) (State.answer_endsWaits _ m _)

/-- A request that enters the Hold List, is issued or is answered RETRY leaves nothing to test. -/
theorem State.enterHold_testsMade {s : State} {m : MasterId} {c : Context} (hi : s.context m = .idle) (hc : Context.awaitsArea c = false)
    (hcl : c.heldLine ≠ none) (ha : s.HoldAgrees) (h : s.TestsMade) :
    ((s.setContext m c).enterHold m).TestsMade := by
  have h1 := State.enterHold_areasWait m c hc ⟨h.1, h.2.1⟩
  refine ⟨h1.1, h1.2, ?_⟩
  have hne : ∀ p ∈ s.holdList, p.master ≠ m := fun p hp e => by have := ha.2 p hp; rw [e, hi] at this; cases this
  have hsw : (s.setContext m c).ShutdownWaits := shutdownWaits_of h.2.2.2 (by simp) (fun _ => by simp) (fun t tr k => by simpa using k)
  have hj : ∀ b, (b = true ∨ (s.setContext m c).lineClear c = false) → ((s.setContext m c).joinHold m b).HoldsWait := by
    intro b hb p hp hr
    rcases List.mem_append.mp hp with hp | hp
    · have := h.2.2.1 p (by simpa using hp) hr
      have hpm := hne p (by simpa using hp)
      have hx : ((s.setContext m c).joinHold m b).context p.master = s.context p.master := by
        show (s.setContext m c).context p.master = _; simp [hpm]
      rw [hx]
      refine ⟨fun r hr => ?_, fun w hw => ?_⟩
      · rcases this.1 r hr with ⟨a, g⟩ | g
        · exact .inl ⟨a, by show ∃ e ∈ ((s.setContext m c).area a).queue, _; simpa using g⟩
        · exact .inr g
      · rcases this.2 w hw with ⟨a, g⟩ | g
        · exact .inl ⟨a, by show ∃ e ∈ ((s.setContext m c).area a).queue, _; simpa using g⟩
        · exact .inr g
    · simp only [List.mem_singleton] at hp; subst hp
      have hb : (s.setContext m c).lineClear c = false := by
        rcases hb with rfl | hb
        · cases hr
        · exact hb
      have hx : ((s.setContext m c).joinHold m b).context m = c := by
        show (s.setContext m c).context m = _; simp
      rw [hx]
      refine ⟨fun r k => ?_, fun w k => ?_⟩
      · subst k
        simp only [State.lineClear, Bool.and_eq_false_iff, Bool.not_eq_false'] at hb
        rcases hb with hb | hb
        · exact .inl ((State.lineLive_iff (s.setContext m _) _).mp hb)
        · exact .inr ((State.lineBusy_iff (s.setContext m _) _).mp hb)
      · subst k
        simp only [State.lineClear, Bool.and_eq_false_iff, Bool.not_eq_false'] at hb
        rcases hb with hb | hb
        · exact .inl ((State.lineLiveBefore_iff (s.setContext m _) _ _).mp hb)
        · exact .inr ((State.lineBusy_iff (s.setContext m _) _).mp hb)
  have hcx : (s.setContext m c).context m = c := by simp
  unfold State.enterHold
  rw [hcx]
  dsimp only
  split
  · have hA : ((s.setContext m c).joinHold m true).arbitrate.HoldsWait ∧ ((s.setContext m c).joinHold m true).arbitrate.ShutdownWaits :=
      ⟨State.arbitrate_holdsWait (hj true (.inl rfl)), State.arbitrate_shutdownWaits hsw⟩
    split
    · exact hA
    · refine ⟨holdsWait_of hA.1 (fun p hp hr => ⟨p, ?_, hr, rfl⟩) (fun n => ?_) (fun a e he => ⟨e, by simpa using he, rfl, rfl⟩)
        (fun t tr k => by simpa using k), shutdownWaits_of hA.2 (by simp) (fun _ => by simp) (fun t tr k => by simpa using k)⟩
      · simp [State.leaveHold] at hp; exact hp.1
      · by_cases hn : n = m
        · subst hn; right; simp [Context.heldLine]
        · left; simp [hn]
  · rename_i hlc
    split
    · exact ⟨State.arbitrate_holdsWait (hj false (.inr (by simpa using hlc))), State.arbitrate_shutdownWaits hsw⟩
    · refine ⟨holdsWait_of (s := s) h.2.2.1 (fun p hp hr => ⟨p, by simpa using hp, hr, rfl⟩) (fun n => ?_)
        (fun a e he => ⟨e, by simpa using he, rfl, rfl⟩) (fun t tr k => by simpa using k), shutdownWaits_of h.2.2.2 (by simp)
        (fun _ => by simp) (fun t tr k => by simpa using k)⟩
      by_cases hn : n = m
      · subst hn; right; simp [Context.heldLine]
      · left; simp [hn]

theorem State.markThrough_testsMade {s : State} (m : MasterId) (h : s.TestsMade) : (s.markThrough m).TestsMade ∧
    (s.markThrough m).context m = s.context m ∧ (s.HoldAgrees → (s.markThrough m).HoldAgrees) := by
  have hc : ∀ n, (s.markThrough m).context n = s.context n := fun n => by
    unfold State.markThrough; split
    · rfl
    · simp; rintro rfl; rfl
  have hmm : ∀ n, ((s.markThrough m).master n).joinedArea = (s.master n).joinedArea ∧ ((s.markThrough m).master n).detachingArea =
    (s.master n).detachingArea := fun n => by
    unfold State.markThrough; split
    · simp
    · by_cases hn : n = m
      · subst hn; simp
      · simp [hn]
  refine ⟨testsMade_of h (fun _ => by simp) hmm (fun n => .inl (hc n)) (fun p hp hr => ⟨p, by simpa using hp, hr, rfl⟩)
    (fun t tr k => by simpa using k) (by simp), hc m, fun ha => ?_⟩
  have : (s.markThrough m).holdList = s.holdList := by simp
  unfold State.HoldAgrees
  rw [this]
  exact ⟨ha.1, fun p hp => by rw [hc]; exact ha.2 p hp⟩

theorem State.takeThrough_testsMade {s : State} (m : MasterId) (l : Line) (k : Mask) (d : LineData) (hi : s.context m = .idle)
    (ha : s.HoldAgrees) (h : s.TestsMade) : (s.takeThrough m l k d).TestsMade := by
  obtain ⟨h1, h2, h3⟩ := State.markThrough_testsMade m h
  unfold State.takeThrough
  dsimp only
  split
  · exact State.answer_testsMade h1 m _
  · exact State.enterHold_testsMade (h2.trans hi) rfl (by simp [Context.heldLine]) (h3 ha) h1

/-- What grants and answers may do: no wait begins, the joins stay, and every entry is still there. -/
structure Eases (s u : State) : Prop where
  en : EndsWaits s u
  ms : ∀ m, (u.master m).joinedArea = (s.master m).joinedArea ∧ (u.master m).detachingArea = (s.master m).detachingArea
  ar : ∀ b, u.area b = { s.area b with queue := (u.area b).queue } ∧ Grows (s.area b) (u.area b)

theorem Grows.trans {x y z : AreaRec} (h : Grows x y) (k : Grows y z) : Grows x z :=
  ⟨h.1.trans k.1, fun e he => by
    obtain ⟨e', h1, h2, h3⟩ := h.2 e he
    obtain ⟨e'', k1, k2, k3⟩ := k.2 e' h1
    exact ⟨e'', k1, k2.trans h2, k3.trans h3⟩⟩

theorem Eases.refl (s : State) : Eases s s := ⟨.refl s, fun _ => ⟨rfl, rfl⟩, fun _ => ⟨rfl, .refl _⟩⟩

theorem Eases.trans {s u v : State} (h : Eases s u) (k : Eases u v) : Eases s v :=
  ⟨h.en.trans k.en, fun m => ⟨(k.ms m).1.trans (h.ms m).1, (k.ms m).2.trans (h.ms m).2⟩, fun b => by
    refine ⟨?_, (h.ar b).2.trans (k.ar b).2⟩
    have h1 := (h.ar b).1
    have k1 := (k.ar b).1
    rw [k1, h1]⟩

theorem Eases.of {s u : State} (he : EndsWaits s u) (ha : ∀ b, u.area b = s.area b)
    (hm : ∀ m, (u.master m).joinedArea = (s.master m).joinedArea ∧ (u.master m).detachingArea = (s.master m).detachingArea) : Eases s u :=
  ⟨he, hm, fun b => by rw [ha]; exact ⟨rfl, .refl _⟩⟩

theorem State.arbitrate_eases (s : State) : Eases s s.arbitrate := State.arbitrate_induct (P := Eases s) s (.refl s) fun u c x h _ _ _ =>
  h.trans ⟨State.issue_endsWaits u c x, fun m => by rw [((State.issue_spec u c x).2.1 m).1]; exact ⟨rfl, rfl⟩,
    fun b => ⟨((State.issue_spec u c x).1 b).1, .of_lasting ((State.issue_spec u c x).1 b).2⟩⟩

theorem State.setContext_eases (s : State) (m : MasterId) (c : Context) (hc : Context.awaitsArea c = false) : Eases s (s.setContext m c) :=
  .of (fun n => by
    by_cases hn : n = m
    · subst hn; right; simp [hc]
    · left; simp [hn]) (fun _ => by simp) (fun n => by
    by_cases hn : n = m
    · subst hn; simp
    · simp [hn])

theorem State.answer_eases (s : State) (m : MasterId) (b : AnswerBody) : Eases s (s.answer m b) :=
  .of (State.answer_endsWaits s m b) (fun _ => by simp) (fun n => by
    by_cases hn : n = m
    · subst hn; simp
    · simp [hn])

theorem eases_holdList (s : State) (l : List HoldPlace) : Eases s { s with holdList := l } := .of (.of_eq fun _ => rfl) (fun _ => rfl)
    (fun _ => ⟨rfl, rfl⟩)

theorem State.enterHold_eases (s : State) (m : MasterId) : Eases s (s.enterHold m) := by
  unfold State.enterHold
  dsimp only
  split
  · split
    · exact (eases_holdList s _).trans (State.arbitrate_eases _)
    · exact (((eases_holdList s _).trans (State.arbitrate_eases _)).trans (eases_holdList _ _)).trans (State.answer_eases _ m _)
  · split
    · exact (eases_holdList s _).trans (State.arbitrate_eases _)
    · exact State.answer_eases _ m _

theorem State.markThrough_eases (s : State) (m : MasterId) : Eases s (s.markThrough m) := by
  refine .of (.of_eq fun n => ?_) (fun _ => by simp) fun n => ?_
  · unfold State.markThrough; split
    · rfl
    · simp; rintro rfl; rfl
  · unfold State.markThrough; split
    · simp
    · by_cases hn : n = m
      · subst hn; simp
      · simp [hn]

theorem EndsWaits.awaitsArea {s u : State} (h : EndsWaits s u) {m} (k : Context.awaitsArea (s.context m) = false) : Context.awaitsArea
    (u.context m) = false := by
  rcases h m with h | h
  · rw [h]; exact k
  · exact h

theorem State.takeThrough_eases (s : State) (m : MasterId) (l : Line) (k : Mask) (d : LineData) : Eases s
    (s.takeThrough m l k d) ∧ Context.awaitsArea ((s.takeThrough m l k d).context m) = false := by
  unfold State.takeThrough
  dsimp only
  split
  · exact ⟨(State.markThrough_eases s m).trans (State.answer_eases _ m _), by simp [Context.awaitsArea]⟩
  · refine ⟨((State.markThrough_eases s m).trans (State.setContext_eases _ m _ rfl)).trans (State.enterHold_eases _ m),
      (State.enterHold_eases _ m).en.awaitsArea (by simp [Context.awaitsArea])⟩

theorem Eases.areaWaits {s u : State} {a} (h : Eases s u) (k : s.AreaWaits a) : u.AreaWaits a :=
  areaWaits_of k (by rw [(h.ar a).1]) (by rw [(h.ar a).1]) (by rw [(h.ar a).1]) (by rw [(h.ar a).1]) (h.ar a).2 h.en

/-- The detach of a JOINED area, with the conversion of its waiting write (R15, R29). -/
theorem State.detachArea_areasWait (hJ : JoinsMove) {s : State} {a : AreaId} (hj : s.JoinsAgree) (ht : AreasWait s)
    (hs : (s.area a).state = .joined) :
    AreasWait ((s.detachArea a).endDetach a) := by
  have hj' : (s.detachArea a).JoinsAgree := Moves.keeps (X := none) (hJ _) (State.detachArea_moves hs) hj
  obtain ⟨m, hm, hmj⟩ := hj.2.2.1 a (.inl hs)
  obtain ⟨k1, k2, k3, k4, k5⟩ := (areaWaits_iff s a).mp (ht.1 a)
  let v := s.beginDetach a ((s.area a).pendingOp.getD .detach)
  have hx : s.detachArea a = v.convertWaiting m := by unfold State.detachArea; simp only [hm]; rfl
  have va : v.area a = { s.area a with state := .detaching, pendingOp := some ((s.area a).pendingOp.getD .detach) } := by
    simp [v, State.beginDetach_area]
  have vb : ∀ b, b ≠ a → v.area b = s.area b := fun b hb => by simp [v, State.beginDetach_area, hb]
  have vc : ∀ n, v.context n = s.context n := State.beginDetach_context s a _
  have vm : ∀ n, n ≠ m → v.master n = s.master n := fun n hn => by
    show (s.beginDetach a _).master n = _
    rw [State.beginDetach_master]; simp [hm, Ne.symm hn]
  have vmm : (v.master m).detachingArea = some a := by
    show ((s.beginDetach a _).master m).detachingArea = _
    rw [State.beginDetach_master]; simp [hm]
  have hsoft : Eases v (s.detachArea a) ∧ ∀ w, (s.detachArea a).context m ≠ .postingWait w := by
    rw [hx]
    unfold State.convertWaiting
    split
    · rename_i w hc
      obtain ⟨g1, g2⟩ := State.takeThrough_eases v m w.line w.mask w.data
      exact ⟨g1, fun w' h => by rw [h] at g2; cases g2⟩
    all_goals
      rename_i hc
      exact ⟨.refl v, fun w h => by rw [hc] at h; cases h⟩
  clear_value v
  obtain ⟨sf, np⟩ := hsoft
  generalize s.detachArea a = x at *
  have ends : EndsWaits s x := (EndsWaits.of_eq vc).trans sf.en
  have hg : Grows (s.area a) (x.area a) := Grows.trans (.of_queue (by rw [va])) (sf.ar a).2
  have xst : (x.area a).state = .detaching := by rw [(sf.ar a).1, va]
  have xop : (x.area a).pendingOp = some ((s.area a).pendingOp.getD .detach) := by rw [(sf.ar a).1, va]
  have xm : (x.area a).master = (s.area a).master := by rw [(sf.ar a).1, va]
  refine Settling.endDetach ⟨hj', ⟨fun n w k => ?_, fun n mark k => ?_⟩, fun b hb => ?_, fun k _ => by rw [xst]; simp⟩ ?_ ?_ ?_ ?_
  · have hn : n ≠ m := fun h => np w (h ▸ k)
    obtain ⟨b, g1, g2⟩ := ht.2.1 n w (ends.post k)
    have hb : b ≠ a := by
      rintro rfl
      have := (hj.1 n b g1).2.1
      rw [hm] at this; cases this; exact hn rfl
    exact ⟨b, by rw [(sf.ms n).1, vm n hn]; exact g1, by rw [(sf.ar b).1, vb b hb]; exact g2⟩
  · by_cases hn : n = m
    · subst hn; exact ⟨a, .inr (by rw [(sf.ms n).2]; exact vmm)⟩
    · obtain ⟨b, g1⟩ := ht.2.2 n mark (ends.sync k)
      exact ⟨b, by rw [(sf.ms n).1, (sf.ms n).2, vm n hn]; exact g1⟩
  · exact Eases.areaWaits sf (areaWaits_of_area (ht.1 b) (vb b hb) (.of_eq vc))
  · intro n w h; rw [xst] at h; cases h
  · intro n mark h1 h2
    rw [xm] at h1
    exact hg.before (k2 n mark h1 (ends.sync h2))
  · intro mark h
    rw [xop] at h
    refine ⟨by rw [xst]; simp, hg.before (k3 mark ?_).2⟩
    cases ho : (s.area a).pendingOp with
    | none => rw [ho] at h; cases h
    | some o => rw [ho] at h; exact h
  · intro mark h
    rw [xop] at h
    refine hg.before (k4 mark ?_)
    cases ho : (s.area a).pendingOp with
    | none => rw [ho] at h; cases h
    | some o => rw [ho] at h; exact h

/-- A PURGE taken, with its drops and their news (R112). -/
theorem State.beginPurge_areasWait (hJ : JoinsMove) {s : State} {a : AreaId} (hj : s.JoinsAgree) (ht : AreasWait s) : AreasWait
    ((s.beginPurge a).settleArea a) := by
  have hj' : (s.beginPurge a).JoinsAgree := Moves.keeps (X := none) (hJ _) (State.beginPurge_moves s a) hj
  refine Settling.settleArea hJ (Handles.settling (s := s) ?_ hj hj' ht)
  unfold State.beginPurge
  refine Handles.trans (u := s.setArea a { s.area a with pendingOp := some (.purge s.nextPlace) })
    ⟨.of_eq fun _ => by simp, fun b hb => by simp [hb], fun _ => by simp, .inl (by simp), fun k h => by simp at h⟩
    (Handles.drop _ a _ _) (by simp)

theorem State.enlist_areasWait {s : State} {a : AreaId} (ht : AreasWait s) : AreasWait (s.enlist a) := by
  refine ⟨fun b => ?_, waitersJoined_of ht.2 (fun _ => by simp) (fun b k => ?_) (.of_eq fun _ => by simp)⟩
  · by_cases hb : b = a
    · subst hb
      have : (s.enlist b).area b = { s.area b with inShutdown := true } := by simp [State.enlist]
      exact areaWaits_of (ht.1 b) (by rw [this]) (by rw [this]) (by rw [this]) (by rw [this]) (.of_queue (by rw [this]))
        (.of_eq fun _ => by simp)
    · exact areaWaits_of_area (ht.1 b) (by simp [State.enlist, hb]) (.of_eq fun _ => by simp)
  · by_cases hb : b = a
    · subst hb; simp [State.enlist, k]
    · simp [State.enlist, hb, k]

/-- What a soft reset does to one area (R137 to R139). -/
theorem State.shutArea_areasWait (hJ : JoinsMove) {s : State} {a : AreaId} (hj : s.JoinsAgree) (ht : AreasWait s) : AreasWait
    (s.shutArea a) := by
  have hje : (s.enlist a).JoinsAgree := hJ _ _ _ (.enlist s a (X := none)) hj
  unfold State.shutArea
  split
  · exact ht
  · exact State.enlist_areasWait ht
  · rename_i h
    exact State.detachArea_areasWait hJ hje (State.enlist_areasWait ht) (by simp [State.enlist, h])
  · split
    · exact State.enlist_areasWait ht
    · exact State.beginPurge_areasWait hJ hje (State.enlist_areasWait ht)

theorem State.beginShutdown_areasWait (hJ : JoinsMove) {s : State} (hj : s.JoinsAgree)
    (ht : AreasWait s) : s.beginShutdown.JoinsAgree ∧ AreasWait s.beginShutdown :=
  foldl_keeps (P := fun u : State => u.JoinsAgree ∧ AreasWait u) State.shutArea allAreas { s with mode := .shutdown }
    ⟨hj, areasWait_of (s := s) ht (fun _ => rfl) (fun _ => ⟨rfl, rfl⟩) (.of_eq fun _ => rfl)⟩ fun u a _ h =>
      ⟨Moves.keeps (X := none) (hJ _) (State.shutArea_moves u a) h.1, State.shutArea_areasWait hJ h.1 h.2⟩

/-- The expiry of a BUSY tag leaves nothing to test (R84). -/
theorem State.expireTag_testsMade (hJ : JoinsMove) {s : State} {t : TagId} {tr : Transaction} (hj : s.JoinsAgree) (ht : s.TestsMade) :
    (s.expireTag t tr).JoinsAgree ∧ (s.expireTag t tr).TestsMade := by
  have j1 : (s.setTag t (.stale tr.user.isEntry)).markStale.JoinsAgree := joinsAgree_of_eq (s := s)
    (by unfold State.markStale; split <;> rfl) (by unfold State.markStale; split <;> rfl) hj
  have t1 : AreasWait (s.setTag t (.stale tr.user.isEntry)).markStale := areasWait_of (s := s) ⟨ht.1, ht.2.1⟩
    (fun b => by unfold State.markStale; split <;> rfl) (fun b => by unfold State.markStale; split <;> exact ⟨rfl, rfl⟩)
    (.of_eq fun b => by unfold State.markStale; split <;> rfl)
  have j2 := Moves.keeps (hJ _) (State.handResult_moves _ tr.user (.failed .expiry) zeroData) j1
  unfold State.expireTag
  exact ⟨Moves.keeps (X := none) (hJ _) (State.conclude_moves _ _) j2, State.conclude_testsMade hJ j2
    (State.handResult_areasWait hJ j1 t1 _ _ _) _⟩

/-- What the passing of time keeps. -/
def JoinedAndTested (s : State) : Prop := s.JoinsAgree ∧ s.TestsMade

theorem JoinedAndTested.arbitrate (hJ : JoinsMove) (u : State) (h : JoinedAndTested u) : JoinedAndTested u.arbitrate :=
    ⟨Moves.keeps (X := none) (hJ _) (State.arbitrate_moves u) h.1, State.arbitrate_testsMade h.2⟩

theorem JoinedAndTested.now (u : State) (h : JoinedAndTested u) : JoinedAndTested { u with now := u.now + 1 } :=
    ⟨joinsAgree_of_eq (s := u) rfl rfl h.1, testsMade_of_same h.2 rfl rfl rfl rfl rfl⟩

theorem JoinedAndTested.tick (hJ : JoinsMove) {s : State} (h : JoinedAndTested s) : JoinedAndTested s.tick := State.tick_induct
    (P := JoinedAndTested) s h (fun _ _ _ h _ _ => State.expireTag_testsMade hJ h.1 h.2) JoinedAndTested.now
    (JoinedAndTested.arbitrate hJ)

theorem JoinedAndTested.reach (hJ : JoinsMove) {s : State} (n : Nat) (h : JoinedAndTested s) : JoinedAndTested
    (s.reach n) := State.reach_induct (P := JoinedAndTested) s n h
    (fun _ _ _ h _ _ => State.expireTag_testsMade hJ h.1 h.2) JoinedAndTested.now (JoinedAndTested.arbitrate hJ)

/-- In an area that waits, the tests as commands of their own do nothing (log 2). -/
theorem State.AreaWaits.retryPosting_eq {s : State} {a : AreaId} (h : s.AreaWaits a) : s.retryPosting a = s := by
  unfold State.retryPosting
  split
  · rfl
  · rename_i m hm
    split
    · rename_i w hc
      split
      · rename_i hx
        have := h.1 m w hx.1 hm hc
        have := hx.2
        simp only [AreaRec.occupancy] at this; omega
      · rfl
    all_goals rfl

theorem State.AreaWaits.endDrain_eq {s : State} {a : AreaId} (h : s.AreaWaits a) : s.endDrain a = s := by
  unfold State.endDrain
  split
  · rename_i mark hp
    rw [if_pos ((AreaRec.holdsBefore_iff _ _).mpr (h.2.2.1 mark hp).2)]
  all_goals rfl

theorem State.AreaWaits.cutDrain_eq {s : State} {a : AreaId} (h : s.AreaWaits a) (hh : (s.area a).state = .halted) : s.cutDrain a = s := by
  unfold State.cutDrain
  split
  · rename_i mark hp
    exact absurd hh (h.2.2.1 mark hp).1
  all_goals rfl

theorem State.AreaWaits.endPurge_eq {s : State} {a : AreaId} (h : s.AreaWaits a) : s.endPurge a = s := by
  unfold State.endPurge
  split
  · rename_i mark hp
    rw [if_pos ((AreaRec.holdsBefore_iff _ _).mpr (h.2.2.2.1 mark hp))]
  all_goals rfl

theorem State.AreaWaits.endDetach_eq {s : State} {a : AreaId} (h : s.AreaWaits a) : s.endDetach a = s := by
  unfold State.endDetach
  rw [if_neg fun k => h.2.2.2.2 k.1 k.2]

theorem State.ShutdownWaits.testSoftReset_eq {s : State} (h : s.ShutdownWaits) : s.testSoftReset = s := by
  unfold State.testSoftReset
  refine if_neg fun k => ?_
  obtain ⟨h1, h2⟩ := (State.softResetDone_iff s).mp k.2
  rcases h k.1 with ⟨a, g⟩ | ⟨t, g⟩
  · exact g (h1 a)
  · rw [h2 t] at g; cases g

theorem State.unlessReset_testsMade {s : State} (k : State → State) (h : s.TestsMade) (hk : (k s).TestsMade) :
    (s.unlessReset k).TestsMade := by
  unfold State.unlessReset; split
  · exact h
  · exact hk

theorem State.command_testsMade {s : State} (n : Nat) (k : State → Taken) (h : s.TestsMade) (hk : (k s).state.TestsMade) :
    (s.command n k).TestsMade := by
  unfold State.command
  refine State.unlessReset_testsMade _ h ?_
  split
  · unfold Taken.close; exact testsMade_of_same hk rfl rfl rfl rfl rfl
  · exact h

theorem State.runningCommand_testsMade {s : State} (n : Nat) (k : State → Taken) (h : s.TestsMade)
    (hk : s.mode = .running → (k s).state.TestsMade) : (s.runningCommand n k).TestsMade := by
  unfold State.runningCommand
  refine State.command_testsMade _ _ h ?_
  split
  · exact h
  · rename_i hm; exact hk (by cases hx : s.mode <;> simp_all)

theorem State.takeRequest_testsMade {s : State} (m : MasterId) (k : State → State) (h : s.TestsMade)
    (hk : s.context m = .idle → (k s).TestsMade) : (s.takeRequest m k).TestsMade := by
  unfold State.takeRequest
  (repeat' split)
  · rename_i hi; exact hk hi
  · exact testsMade_of_same h rfl rfl rfl rfl rfl
  · exact h

theorem State.answerSync_testsMade {s : State} (m : MasterId) (h : s.TestsMade) : (s.answerSync m).TestsMade := by
  obtain ⟨h1, h2, h3⟩ := State.answerSync_spec s m
  refine testsMade_of h (fun _ => by simp) h3 (fun n => ?_) (fun p hp hr => ⟨p, by simpa using hp, hr, rfl⟩)
    (fun t tr k => by simpa using k) (by simp)
  by_cases hn : n = m
  · subst hn; right; rw [h2]; exact ⟨rfl, rfl⟩
  · exact .inl (h1 n hn)

theorem State.answerHaltTerms_testsMade {s : State} (m : MasterId) (h : s.TestsMade) : (s.answerHaltTerms m).TestsMade := by
  refine testsMade_of h (fun _ => by simp) (fun n => ?_) (fun n => ?_) (fun p hp hr => ⟨p, by simpa using hp, hr, rfl⟩)
    (fun t tr k => by simpa using k) (by simp)
  · unfold State.answerHaltTerms State.answerDeferred
    split
    · by_cases hn : n = m
      · subst hn; simp
      · simp [hn]
    · by_cases hn : n = m
      · subst hn; simp
      · simp [hn]
  · unfold State.answerHaltTerms State.answerDeferred
    by_cases hn : n = m
    · subst hn; right; split <;> simp [Context.awaitsArea, Context.heldLine]
    · left; split <;> simp [hn]

/-- A SYNC that waits for a live entry leaves nothing to test (R92). -/
theorem State.waitSync_testsMade {s : State} {m : MasterId} (hj : s.JoinsAgree) (hq : s.QueuesOrdered) (hi : s.context m = .idle)
    (h : s.TestsMade) {a : AreaId}
    (ha : (s.area a).master = some m) (hn : (s.area a).queue ≠ []) : (s.waitSync m).TestsMade := by
  unfold State.waitSync
  refine State.arbitrate_testsMade ?_
  have hc : ∀ n, n ≠ m → (s.setContext m (.syncWait s.nextPlace)).context n = s.context n := fun n hn => by simp [hn]
  have hcm : (s.setContext m (.syncWait s.nextPlace)).context m = .syncWait s.nextPlace := by simp
  have har : ∀ b, (s.setContext m (.syncWait s.nextPlace)).area b = s.area b := fun b => by simp
  have hmm : ∀ n, ((s.setContext m (.syncWait s.nextPlace)).master n).joinedArea = (s.master n).joinedArea ∧
    ((s.setContext m (.syncWait s.nextPlace)).master n).detachingArea = (s.master n).detachingArea := fun n => by
    by_cases hn : n = m
    · subst hn; simp
    · simp [hn]
  refine ⟨fun b => ?_, ⟨fun n w k => ?_, fun n k hk => ?_⟩, ?_, ?_⟩
  · obtain ⟨k1, k2, k3, k4, k5⟩ := h.1 b
    rw [areaWaits_iff]; unfold SlotAwaited SyncAwaited DrainAwaited PurgeAwaited DetachAwaited; simp only [har]
    refine ⟨fun n w g1 g2 g3 => ?_, fun n mark g1 g2 => ?_, k3, k4, k5⟩
    · by_cases hnm : n = m
      · subst hnm; rw [hcm] at g3; cases g3
      · exact k1 n w g1 g2 (by rw [← hc n hnm]; exact g3)
    · by_cases hnm : n = m
      · subst hnm
        rw [hcm] at g2; cases g2
        have e1 := syncArea_of_master hj ha
        have e2 := syncArea_of_master hj g1
        rw [e1] at e2; cases e2
        obtain ⟨e, he⟩ := List.exists_mem_of_ne_nil _ hn
        exact ⟨e, he, (hq a).2 e he⟩
      · exact k2 n mark g1 (by rw [← hc n hnm]; exact g2)
  · have hnm : n ≠ m := by rintro rfl; rw [hcm] at k; cases k
    rw [hc n hnm] at k
    obtain ⟨b, g1, g2⟩ := h.2.1.1 n w k
    exact ⟨b, by rw [(hmm n).1]; exact g1, by rw [har]; exact g2⟩
  · by_cases hnm : n = m
    · subst hnm
      rw [(hmm n).1, (hmm n).2]
      rcases joinsAgree_of_master hj ha with ⟨g, _⟩ | ⟨_, g, _⟩
      · exact ⟨a, .inl g⟩
      · exact ⟨a, .inr g⟩
    · rw [hc n hnm] at hk
      obtain ⟨b, g1⟩ := h.2.1.2 n k hk
      exact ⟨b, by rw [(hmm n).1, (hmm n).2]; exact g1⟩
  · refine holdsWait_of h.2.2.1 (fun p hp hr => ⟨p, by simpa using hp, hr, rfl⟩) (fun n => ?_)
      (fun a e he => ⟨e, by simpa using he, rfl, rfl⟩) (fun t tr k => by simpa using k)
    by_cases hnm : n = m
    · subst hnm; right; rw [hcm]; rfl
    · exact .inl (hc n hnm)
  · exact shutdownWaits_of h.2.2.2 (by simp) (fun _ => by simp) (fun t tr k => by simpa using k)

/-- A write to a JOINED area leaves nothing to test (R22 to R26). -/
theorem State.decideJoined_testsMade {s : State} {m : MasterId} {a : AreaId} {w : WriteReq} (hj : s.JoinsAgree) (hi : s.context m = .idle)
    (hm : (s.master m).joinedArea = some a) (hh : (s.area a).state ≠ .halted) (h : s.TestsMade) : (s.decideJoined m a w).TestsMade := by
  by_cases hx : (s.area a).occupancy < (s.area a).size
  · obtain ⟨d1, d2, d3, d4⟩ := State.decideJoined_spec (m := m) (w := w) hx
    have hd : ((s.decideJoined m a w).context m).heldLine = none ∧ (s.decideJoined m a w).holdList = s.holdList ∧
      (∀ t, (s.decideJoined m a w).tag t = s.tag t) ∧ (s.decideJoined m a w).mode = s.mode := by
      unfold State.decideJoined
      split
      · simp [Context.heldLine]
      · rw [if_pos hx]; split <;> simp [Context.heldLine]
    generalize s.decideJoined m a w = u at *
    have he : EndsWaits s u := fun n => by
      by_cases hn : n = m
      · subst hn; exact .inr d1
      · exact .inl (d2 n hn)
    refine ⟨fun b => areaWaits_of (h.1 b) (by rw [(d4 b).1]) (by rw [(d4 b).1]) (by rw [(d4 b).1]) (by rw [(d4 b).1]) (d4 b).2 he,
      waitersJoined_of h.2.1 d3 (fun b k => by rw [(d4 b).1]; exact k) he, holdsWait_of h.2.2.1 (fun p hp hr => ⟨p, hd.2.1 ▸ hp, hr, rfl⟩)
        (fun n => ?_) (fun b e he => (d4 b).2.2 e he) (fun t tr k => by rw [hd.2.2.1]; exact k),
      shutdownWaits_of h.2.2.2 hd.2.2.2 (fun b => by rw [(d4 b).1]) (fun t tr k => by rw [hd.2.2.1]; exact k)⟩
    by_cases hn : n = m
    · subst hn; exact .inr hd.1
    · exact .inl (d2 n hn)
  · unfold State.decideJoined
    split
    · rename_i e ht
      obtain ⟨⟨q, hq⟩, _⟩ := State.mergeTarget_tail ht
      have hG : ∀ b, (s.mergeTail a w e).area b = { s.area b with queue := ((s.mergeTail a w e).area b).queue } ∧ Grows (s.area b)
        ((s.mergeTail a w e).area b) := fun b => by
        simp
        by_cases hb : b = a
        · subst hb
          simp only [if_true, true_and]
          rw [hq]
          refine ⟨by rw [hq]; simp, fun x hx => ?_⟩
          rw [hq] at hx
          rcases List.mem_append.mp hx with hx | hx
          · exact ⟨x, by simp [hx], rfl, rfl⟩
          · rw [List.mem_singleton.mp hx]
            exact ⟨e.merged w, by simp, rfl, rfl⟩
        · simp only [hb, if_false]; exact ⟨by trivial, .refl _⟩
      refine State.answer_testsMade ⟨fun b => ?_, waitersJoined_of h.2.1 (fun _ => by simp) (fun b k => by rw [(hG b).1]; exact k)
        (.of_eq fun _ => by simp), holdsWait_of h.2.2.1 (fun p hp hr => ⟨p, by simpa using hp, hr, rfl⟩) (fun n => .inl (by simp))
        (fun b e he => (hG b).2.2 e he) (fun t tr k => by simpa using k), shutdownWaits_of h.2.2.2 (by simp) (fun b => by rw [(hG b).1])
        (fun t tr k => by simpa using k)⟩ m _
      exact areaWaits_of (h.1 b) (by rw [(hG b).1]) (by rw [(hG b).1]) (by rw [(hG b).1]) (by rw [(hG b).1]) (hG b).2
        (.of_eq fun _ => by simp)
    · rw [if_neg hx]
      have hc : ∀ n, n ≠ m → (s.setContext m (.postingWait w)).context n = s.context n := fun n hn => by simp [hn]
      have hcm : (s.setContext m (.postingWait w)).context m = .postingWait w := by simp
      have har : ∀ b, (s.setContext m (.postingWait w)).area b = s.area b := fun b => by simp
      have hmm : ∀ n, ((s.setContext m (.postingWait w)).master n).joinedArea = (s.master n).joinedArea ∧
        ((s.setContext m (.postingWait w)).master n).detachingArea = (s.master n).detachingArea := fun n => by
        by_cases hn : n = m
        · subst hn; simp
        · simp [hn]
      refine ⟨fun b => ?_, ⟨fun n w' k => ?_, fun n k hk => ?_⟩, ?_, ?_⟩
      · obtain ⟨k1, k2, k3, k4, k5⟩ := h.1 b
        rw [areaWaits_iff]; unfold SlotAwaited SyncAwaited DrainAwaited PurgeAwaited DetachAwaited; simp only [har]
        refine ⟨fun n w' g1 g2 g3 => ?_, fun n mark g1 g2 => ?_, k3, k4, k5⟩
        · by_cases hnm : n = m
          · subst hnm
            have e1 := syncArea_of_master hj g2
            simp [State.syncArea, hm] at e1; subst e1
            simpa [AreaRec.occupancy] using hx
          · exact k1 n w' g1 g2 (by rw [← hc n hnm]; exact g3)
        · by_cases hnm : n = m
          · subst hnm; rw [hcm] at g2; cases g2
          · exact k2 n mark g1 (by rw [← hc n hnm]; exact g2)
      · by_cases hnm : n = m
        · subst hnm
          refine ⟨a, by rw [(hmm n).1]; exact hm, ?_⟩
          rw [har]
          rcases (hj.1 n a hm).2.2 with g | g
          · exact g
          · exact absurd g hh
        · rw [hc n hnm] at k
          obtain ⟨b, g1, g2⟩ := h.2.1.1 n w' k
          exact ⟨b, by rw [(hmm n).1]; exact g1, by rw [har]; exact g2⟩
      · have hnm : n ≠ m := by rintro rfl; rw [hcm] at hk; cases hk
        rw [hc n hnm] at hk
        obtain ⟨b, g1⟩ := h.2.1.2 n k hk
        exact ⟨b, by rw [(hmm n).1, (hmm n).2]; exact g1⟩
      · refine holdsWait_of h.2.2.1 (fun p hp hr => ⟨p, by simpa using hp, hr, rfl⟩) (fun n => ?_)
          (fun a e he => ⟨e, by simpa using he, rfl, rfl⟩) (fun t tr k => by simpa using k)
        by_cases hnm : n = m
        · subst hnm; right; rw [hcm]; rfl
        · exact .inl (hc n hnm)
      · exact shutdownWaits_of h.2.2.2 (by simp) (fun _ => by simp) (fun t tr k => by simpa using k)

/-- A change of one area's record in RUNNING mode leaves nothing to test if that area waits. -/
theorem State.setArea_testsMade {s : State} {a : AreaId} {r : AreaRec} (h : s.TestsMade) (hr : s.mode = .running)
    (hq : r.queue = (s.area a).queue)
    (hw : (s.area a).state = .joined → r.state = .joined) (haw : (s.setArea a r).AreaWaits a) : (s.setArea a r).TestsMade := by
  refine ⟨fun b => ?_, waitersJoined_of h.2.1 (fun _ => by simp) (fun b k => ?_) (.of_eq fun _ => by simp), holdsWait_of h.2.2.1
    (fun p hp hr => ⟨p, by simpa using hp, hr, rfl⟩) (fun n => .inl (by simp)) (fun b e he => ⟨e, ?_, rfl, rfl⟩)
    (fun t tr k => by simpa using k), fun k => by simp [hr] at k⟩
  · by_cases hb : b = a
    · subst hb; exact haw
    · exact areaWaits_of_area (h.1 b) (by simp [hb]) (.of_eq fun _ => by simp)
  · by_cases hb : b = a
    · subst hb; simpa using hw k
    · simpa [hb] using k
  · by_cases hb : b = a
    · subst hb; simpa [hq] using he
    · simpa [hb] using he

end Sys2Proof.Machine
end

