-- ==== Sys2Proof/Tests/Slice0.lean ====
section
/-! SUPPORT. The model's own tests: ill-formed terms, frames and requests written out from the manual's encodings, one step of every
command, and for every statement with premises a state that meets them. -/

namespace Sys2Proof.Tests

set_option Elab.async false

open Sys2Proof Sys2Proof.Machine

/-! ## Small states -/

/-- The next state of a command, if it has one. -/
def ran (c : Instr) (s : State) : Option State :=
  match exec c s with
  | .next t => some t
  | .fault _ | .refused _ => none

/-- Master 0 joined to area 0 and master 1 to area 1. -/
def two : State := (State.reset.joinMaster 0 0).joinMaster 1 1

/-- Byte 0 of a line is ABH. -/
def lineData : LineData := zeroData.set 0 0xAB#8

/-- An entry in HELD that marks byte 0. -/
def held (place : Nat) (line : Line) : Entry :=
  { line := line, mask := 1#32, data := lineData, place := place, strict := false, state := .held, attempts := 0, lingerStart := 0 }

/-- The same entry in ISSUED on tag 0 after this many attempts. -/
def sent (place : Nat) (line : Line) (attempts : Nat) : Entry := { held place line with state := .issued 0, attempts := attempts }

/-- These entries in an area, with ten places given. -/
def posted (s : State) (a : AreaId) (q : List Entry) : State := { s.setQueue a q with nextPlace := 10 }

/-- A tag busy with a user on a line since time 0, with this timeout. -/
def busyFor (timeout : Nat) (s : State) (t : TagId) (user : TagUser) (line : Line) : State :=
  s.setTag t (.busy
    { user := user, request := { kind := .write, line := line, mask := 1#32, data := lineData }, started := 0, timeout := timeout })

/-- The same with a timeout of 500. -/
def busy (s : State) (t : TagId) (user : TagUser) (line : Line) : State := busyFor 500 s t user line

/-- An area changed in place. -/
def change (s : State) (a : AreaId) (f : AreaRec → AreaRec) : State := s.setArea a (f (s.area a))

/-- Area 0 holds one entry, whose linger time ends at this time. -/
def lingering (time : Nat) : State := change (posted two 0 [held 3 5]) 0 fun r => { r with linger := time }

/-- The memory controller is not ready, so nothing is granted. -/
def blocked (s : State) : State := { s with memoryReady := .withdrawn }

/-- Select is asserted and no command has been taken. -/
def framed (s : State) : State := { s with frame := .command }

/-- The entry of place 3 for line 5 is out on tag 0 for area 0. -/
def onTag (attempts : Nat) : State := busy (posted two 0 [sent 3 5 attempts]) 0 (.entry 0 3) 5

/-- The same with a strict entry, for which master 0 waits. -/
def strictOnTag (attempts : Nat) : State :=
  (busy (posted two 0 [{ sent 3 5 attempts with strict := true }]) 0 (.entry 0 3) 5).setContext 0 (.strictWait 3)

/-- Area 0 is HALTED. -/
def halted (s : State) : State := change s 0 fun r => { r with state := .halted }

/-- A long operation is pending on area 0. -/
def withOp (s : State) (op : LongOp) : State := change s 0 fun r => { r with pendingOp := some op }

/-- Area 0 is DETACHING and master 0 has left it. -/
def leaving (s : State) : State := s.beginDetach 0 .detach

def someRecord : FaultRecord :=
  { number := 7, master := 0, area := some 0, line := 5, mask := some 1, cause := .fail, attempts := 2, entries := 1
    disposition := .pending, escalated := false }

/-- A log of n records. -/
def logged (s : State) (n : Nat) : State := { s with faultLog := List.replicate n someRecord }

def someWrite : WriteReq := { line := 9, mask := 1, data := lineData, strict := false }

def someThrough (mark : Nat) : ThroughReq := { line := 5, mask := 1, data := lineData, mark := mark }

/-! ## Ill-formed terms -/

theorem test_listed_kind_is_no_unknown_request :
    (Instr.unknownKindRequest 0 0#2).wellFormed = false ∧ (Instr.unknownKindRequest 0 1#2).wellFormed = false ∧
      (Instr.unknownKindRequest 0 2#2).wellFormed = false ∧ (Instr.unknownKindRequest 0 3#2).wellFormed = true := by decide

theorem test_listed_code_is_no_unknown_command :
    (∀ c ∈ commandCodes, (Instr.unknownCommand c).wellFormed = false) ∧ (Instr.unknownCommand 0x00#8).wellFormed = true ∧
      (Instr.unknownCommand 0x34#8).wellFormed = true := by decide

/-! ## Encodings -/

theorem test_requests_by_kind :
    decodeRequest 3 0#2 5 1 true lineData = .read 3 5 1 ∧ decodeRequest 3 1#2 5 1 true lineData = .write 3 5 1 true lineData ∧
      decodeRequest 3 2#2 5 1 true lineData = .sync 3 ∧ decodeRequest 3 3#2 5 1 true lineData = .unknownKindRequest 3 3 := by
  decide +kernel

theorem test_frames_with_arguments :
    decodeFrame [0x10#8, 0x0B#8, 0x0F#8] = some (.join 11 15, []) ∧
      decodeFrame [0x07#8, 0x01#8, 0xF4#8, 0x01#8, 0x00#8, 0x04#8, 0x87#8] = some (.setGlobal 500 1 0 0x487, []) ∧
      decodeFrame [0x06#8, 0#8, 2#8, 1#8, 3#8, 10#8, 128#8, 1#8] = some (.setArea 0 2 1 3 10 128 1, []) ∧
      decodeFrame [0x23#8, 0x07#8, 0xFF#8] = some (.ackEvents 0x7FF, []) := by decide +kernel

theorem test_frames_without_arguments :
    decodeFrame [0x01#8] = some (.identify, []) ∧ decodeFrame [0x21#8] = some (.readFault, []) ∧
      decodeFrame [0x31#8, 9#8] = some (.softReset, [9#8]) ∧ decodeFrame [0x40#8] = some (.unknownCommand 0x40, []) := by decide +kernel

theorem test_incomplete_frames : decodeFrame [] = none ∧ decodeFrame [0x10#8, 0#8] = none ∧ decodeFrame [0x05#8, 4#8] = none := by
  decide +kernel

theorem test_no_table_word : decodeTableWord 8 1 = none ∧ (State.reset.withFetchWord 8 1).pending = [] := by decide

theorem test_answer_fields :
    (AnswerBody.error .halted).fields.reason = 4#3 ∧ AnswerBody.retry.fields.status = 2#2 ∧
      (AnswerBody.deferred 3 (some { line := 5, cause := .purged })).fields.deferredCause = 4#3 := by decide +kernel

theorem test_driven_bytes :
    (Frame.taken 2 .done [0x11#8] false).drives 2 = 0xFF#8 ∧ (Frame.taken 2 .done [0x11#8] false).drives 3 = 0x00#8 ∧
      (Frame.taken 2 .done [0x11#8] false).drives 4 = 0x11#8 ∧ (Frame.taken 2 .done [0x11#8] false).drives 5 = 0x00#8 := by decide

/-! ## One step of each command -/

theorem test_write_is_posted_and_issued :
    (ran (.write 0 5 1 false lineData) two).map (fun t => ((t.area 0).queue.map Entry.state, t.responses, t.pointer)) =
      some ([.issued 0], [{ master := 0, body := .okay }], 1) := by decide +kernel

theorem test_write_is_merged :
    (ran (.write 0 5 2 false lineData) (blocked (posted two 0 [held 3 5]))).map (fun t => (t.area 0).queue.map Entry.mask) =
      some [3#32] := by decide +kernel

theorem test_through_write_is_issued :
    (ran (.write 2 5 1 false lineData) two).map (fun t => (t.context 2, t.holdList, t.eventSet .through)) =
      some (.throughWait { line := 5, mask := 1, data := lineData, mark := 0 } (.issued 0), [], true) := by decide +kernel

theorem test_read_is_forwarded :
    (ran (.read 2 5 1) (blocked (posted two 0 [held 3 5]))).map State.responses =
      some [{ master := 2, body := .okayData lineData }] := by decide +kernel

theorem test_read_waits_for_its_line :
    (ran (.read 2 5 3) (blocked (posted two 0 [held 3 5]))).map State.holdList = some [{ master := 2, released := false }] := by
  decide +kernel

theorem test_sync_waits :
    (ran (.sync 0) (blocked (posted two 0 [held 3 5]))).map (fun t => (t.context 0, t.urgent 0)) = some (.syncWait 10, true) := by
  decide +kernel

theorem test_sync_deferred :
    (ran (.sync 0) (two.charge 0 3 5 .fail)).map (fun t => (t.responses, (t.master 0).pendingCount)) =
      some ([{ master := 0, body := .deferred 3 (some { line := 5, cause := .fail }) }], 0) := by decide +kernel

theorem test_unknown_kind :
    (ran (.unknownKindRequest 4 3) two).map State.responses = some [{ master := 4, body := .error .protocol }] := by decide +kernel

theorem test_answer_delivery : (ran .answerDelivery (two.send 0 .okay)).map State.responses = some [] := by decide +kernel

theorem test_arbiter_grant :
    (ran .arbiterGrant (posted two 0 [held 3 5, held 4 6])).map (fun t => (t.area 0).issuedCount) = some 1 := by decide +kernel

theorem test_ready_lets_the_arbiter_act :
    (ran (.memoryReady .ready) (blocked (posted two 0 [held 3 5, held 4 6]))).map (fun t => (t.area 0).issuedCount) = some 2 := by
  decide +kernel

theorem test_ready_for_one_acceptance :
    (ran (.memoryReady (.readyFor 0)) (blocked (posted two 0 [held 3 5, held 4 6]))).map
      (fun t => ((t.area 0).issuedCount, t.memoryReady)) = some (1, .withdrawn) := by decide +kernel

theorem test_done_retires :
    (ran (.completion 0 0 lineData) (onTag 1)).map (fun t => ((t.area 0).queue, t.tag 0)) = some ([], .free) := by decide +kernel

theorem test_decode_is_final :
    (ran (.completion 0 2 lineData) (onTag 1)).map (fun t => (t.faultLog.map FaultRecord.cause, (t.master 0).pendingCount)) =
      some ([.decode], 1) := by decide +kernel

theorem test_expiry_makes_stale :
    (ran (.expiry 0) { blocked (onTag 1) with now := 498 }).map
      (fun t => (t.tag 0, (t.area 0).queue.map Entry.state, t.now, t.eventSet .stale)) = some (.stale true, [.reissue], 500, true) := by
  decide +kernel

/-- Tag 3 runs out a microsecond before tag 0. -/
theorem test_expiry_lets_earlier_timers_expire :
    (ran (.expiry 0) { blocked (busyFor 499 (onTag 1) 3 (.master 2) 6) with now := 497 }).map (fun t => (t.tag 0, t.tag 3, t.now)) =
      some (.stale true, .stale false, 500) := by decide +kernel

theorem test_linger_expiry :
    (ran (.lingerExpiry 0) (lingering 3)).map
      (fun t => (t.now, (t.area 0).issuedCount)) = some (3, 1) := by decide +kernel

theorem test_posting_wait_retry :
    (ran (.postingWaitRetry 0) ((blocked two).setContext 0 (.postingWait someWrite))).map
      (fun t => ((t.area 0).occupancy, t.responses)) = some (1, [{ master := 0, body := .okay }]) := by decide +kernel

theorem test_hold_release :
    (ran (.holdRelease 2) { (blocked two).setContext 2 (.readWait { line := 5, mask := 1 } .inHold) with
      holdList := [{ master := 2, released := false }] }).map State.holdList = some [{ master := 2, released := true }] := by
  decide +kernel

theorem test_sync_completion :
    (ran (.syncCompletion 0) ((blocked (posted two 0 [held 10 5])).setContext 0 (.syncWait 10))).map State.responses =
      some [{ master := 0, body := .okay }] := by decide +kernel

theorem test_detach_completion :
    (ran (.detachCompletion 0) (leaving two)).map (fun t => ((t.area 0).state, (t.master 0).detachingArea, t.eventSet .detached)) =
      some (.free, none, true) := by decide +kernel

theorem test_purge_end :
    (ran (.purgeEnd 0) (withOp (halted two) (.purge 10))).map (fun t => ((t.area 0).state, (t.area 0).lastOutcome)) =
      some (.joined, .complete) := by decide +kernel

theorem test_drain_end :
    (ran (.drainEnd 0) (withOp (halted two) (.drain 10))).map (fun t => ((t.area 0).pendingOp, (t.area 0).lastOutcome)) =
      some (none, .cutShort) := by decide +kernel

theorem test_soft_reset_end :
    (ran .softResetEnd { State.reset with mode := .shutdown }).map (fun t => (t.mode, t.resetRecord.cause, t.eventSet .shutdownDone)) =
      some (.running, .soft, true) := by decide +kernel

/-- The status of the command taken in a frame. -/
def statusOf (t : State) : Option Status :=
  match t.frame with
  | .taken _ status _ _ => some status
  | .waiting | .abandoned | .command => none

/-- The reply of the command taken in a frame. -/
def replyOf (t : State) : List Byte :=
  match t.frame with
  | .taken _ _ reply _ => reply
  | .waiting | .abandoned | .command => []

theorem test_identify : (ran .identify (framed two)).map (fun t => (replyOf t).take 4) = some [0x0A#8, 0x5C#8, 0x12#8, 0x40#8] := by
  decide +kernel

theorem test_get_status :
    (ran .getStatus (framed (posted two 0 [held 3 5]))).map replyOf =
      some [0, 0, 0, 0x04, 0x87, 0, 0, 1, 10, 2, 0, 0, 0, 0, 0, 8, 0, 0, 0, 0, 0, 0, 0x01, 0xF4] := by decide +kernel

theorem test_get_area :
    (ran (.getArea 0) (framed (posted two 0 [held 3 5]))).map replyOf =
      some [1, 0, 32, 1, 0, 0, 1, 0, 0, 1, 0, 0, 0xFF, 0, 0] := by decide +kernel

theorem test_get_master :
    (ran (.getMaster 1) (framed (two.charge 1 2 5 .fail))).map replyOf = some [1, 0xFF, 2, 1, 0, 0, 0, 0, 5, 0, 0] := by decide +kernel

theorem test_set_pool :
    (ran (.setPool (Vector.replicate 12 32#8)) (framed State.reset)).bind statusOf = some .done ∧
      (ran (.setPool (Vector.replicate 12 36#8)) (framed State.reset)).bind statusOf = some .range := by decide +kernel

theorem test_set_area :
    (ran (.setArea 0 2 1 3 9 128 0) (framed two)).map (fun t => ((t.area 0).policy, (t.area 0).highWater, (t.area 0).merge)) =
      some (.discard, 128, false) := by decide +kernel

theorem test_set_global :
    (ran (.setGlobal 4095 1 1 0xFFFF) (framed two)).map (fun t => (t.timeout, t.arbitration, t.alertMask)) =
      some (4095, .fixed, 0x7FF) := by decide +kernel

theorem test_join : (ran (.join 2 5) (framed two)).map (fun t => ((t.area 2).state, (t.master 5).joinedArea)) = some (.joined, some 2) := by
  decide +kernel

theorem test_unjoin_of_empty_area :
    (ran (.unjoin 0) (framed two)).map (fun t => ((t.area 0).state, statusOf t)) = some (.free, some .accepted) := by decide +kernel

theorem test_resume : (ran (.resume 0) (framed (halted two))).map (fun t => (t.area 0).state) = some .joined := by decide +kernel

theorem test_purge :
    (ran (.purge 0) (framed (blocked (posted two 0 [held 3 5, held 4 6])))).map
      (fun t => ((t.area 0).queue, t.faultLog.map FaultRecord.entries, (t.master 0).pendingCount)) = some ([], [2], 2) := by
  decide +kernel

theorem test_drain :
    (ran (.drain 0) (framed (blocked (posted two 0 [held 3 5])))).map (fun t => (t.area 0).pendingOp) = some (some (.drain 10)) := by
  decide +kernel

theorem test_peek_fault :
    (ran .peekFault (framed (logged two 1))).map replyOf = some [0, 7, 0, 0, 0, 0, 0, 0, 5, 0, 0, 0, 1, 1, 2, 0, 1, 0] := by
  decide +kernel

theorem test_read_fault_and_removal :
    (ran .readFault (framed (logged two 1))).map (fun t => t.faultLog.length) = some 1 ∧
      ((ran .readFault (framed (logged two 1))).bind (ran .faultRecordRemoval)).map (fun t => t.faultLog.length) = some 0 := by
  decide +kernel

theorem test_clear_master : (ran (.clearMaster 1) (framed (two.charge 1 2 5 .fail))).map (fun t => (t.master 1).firstFault) = some none := by
  decide +kernel

theorem test_ack_events :
    (ran (.ackEvents 0xF801) (framed { two with events := 3 })).map (fun t => (t.events, replyOf t)) = some (2, [0, 3]) := by
  decide +kernel

theorem test_recover_tags : (ran .recoverTags (framed (two.setTag 3 (.stale true)))).map (fun t => t.tag 3) = some .free := by decide +kernel

theorem test_soft_reset : (ran .softReset (framed two)).map (fun t => (t.mode, (t.area 0).lastOutcome)) = some (.running, .complete) := by
  decide +kernel

theorem test_reset_record :
    (ran .readResetRecord (framed two)).map replyOf = some [1, 0, 0, 0, 0, 0, 0, 0] ∧
      (ran .clearResetRecord (framed two)).map (fun t => t.resetRecord.cause) = some .nothing := by decide +kernel

theorem test_unknown_command : (ran (.unknownCommand 0x40) (framed two)).bind statusOf = some .unknown := by decide +kernel

theorem test_select :
    (ran .selectAssertion two).map State.frame = some .command ∧ (ran .selectRelease (framed two)).map State.frame = some .waiting := by
  decide +kernel

theorem test_pin_reset :
    (ran .pinReset (framed (posted two 0 [sent 3 5 1, held 4 6]))).map
      (fun t => (t.resetRecord.heldLost, t.resetRecord.issuedUncertain, t.frame, t.resetHeld)) = some (1, 1, .abandoned, true) := by
  decide +kernel

theorem test_release_and_power_on :
    (ran (.resetRelease 2) { two with resetHeld := true }).map (fun t => (t.resetHeld, t.refclk)) = some (false, 100) ∧
      (ran (.powerOn 3 false) two).map (fun t => ((t.area 0).state, t.refclk, t.resetRecord.cause)) = some (.free, 125, .power) := by
  decide +kernel

/-- On an empty queue the clock moves, and a timer that runs out expires. -/
theorem test_tick :
    (match step { blocked (onTag 1) with now := 499 } with
      | .next t => some (t.now, t.tag 0)
      | .fault _ | .refused _ => none) = some (500, .stale true) := by decide +kernel

/-! ## Premises met

For each statement with premises, a state and operands that meet them, clause by clause. -/

/-- Area 0 holds a waiting write of master 0, with three of its four slots taken. -/
def nearlyFull (n : Nat) : State :=
  change (posted (two.setContext 0 (.postingWait someWrite)) 0 ((List.range n).map fun i => held i 5)) 0 fun r => { r with size := 4 }

/-- A read of master 2 waits in the Hold List. -/
def readHeld (released : Bool) : State :=
  { two.setContext 2 (.readWait { line := 5, mask := 1 } .inHold) with holdList := [{ master := 2, released := released }] }

/-- A through-write of master 2 waits in the Hold List. -/
def throughHeld (released : Bool) : State :=
  { two.setContext 2 (.throughWait (someThrough 4) .inHold) with holdList := [{ master := 2, released := released }] }

/-- The read of master 2 is out on tag 3. -/
def readOut : State := busy (two.setContext 2 (.readWait { line := 5, mask := 1 } (.issued 3))) 3 (.master 2) 5

/-- The through-write of master 2 is out on tag 3. -/
def throughOut : State := busy (two.setContext 2 (.throughWait (someThrough 4) (.issued 3))) 3 (.master 2) 5

theorem premises_EmptyQueueIsOneMicrosecond :
    { two with resetHeld := true }.pending = [] ∧ (onTag 1).pending = [] ∧
      (∀ t, ∀ tr ∈ ({ onTag 1 with now := 498 }.tag t).transaction, 498 + 1 < tr.deadline) ∧
      (onTag 1).mode = .running ∧ 1 ≤ (onTag 1).timeout ∧ (∃ tr ∈ ({ onTag 1 with now := 499 }.tag 0).transaction, tr.deadline = 499 + 1) ∧
      ∀ x, x ≠ 0 → ∀ y ∈ ({ onTag 1 with now := 499 }.tag x).transaction, 499 + 1 < y.deadline :=
  ⟨rfl, rfl, by decide +kernel, rfl, by decide +kernel, ⟨_, rfl, by decide +kernel⟩, by decide +kernel⟩

theorem premises_PowerOnAndRelease : ∃ t, exec (.powerOn 1 true) two = .next t := ⟨_, rfl⟩

theorem premises_PinResetCountsAndResets : two.resetHeld = false ∧ { two with resetHeld := true }.resetHeld = true := ⟨rfl, rfl⟩

theorem premises_HeldResetTakesNothing : { two with resetHeld := true }.resetHeld = true ∧ ¬ outlivesReset .answerDelivery :=
  ⟨rfl, by simp [outlivesReset]⟩

theorem premises_RequestsTurnedAway :
    (two.send 0 .okay).responses ≠ [] ∧ { two with resetHeld := true }.resetHeld = true ∧
      (strictOnTag 1).responses = [] ∧ (strictOnTag 1).resetHeld = false ∧ (strictOnTag 1).context 0 ≠ .idle := by decide +kernel

theorem premises_ZeroMaskWriteAnswered_ZeroMaskReadAnswered : two.takesRequest 0 := by decide +kernel

theorem premises_HaltedAreaRefusesWrite :
    (halted two).takesRequest 0 ∧ (1 : Mask) ≠ 0 ∧ ((halted two).master 0).joinedArea = some 0 ∧ ((halted two).area 0).state = .halted := by
  decide +kernel

theorem premises_JoinedWriteDecided_merge :
    let s := posted two 0 [held 3 5]
    s.takesRequest 0 ∧ (s.master 0).joinedArea = some 0 ∧ (s.area 0).state = .joined ∧
      s.mergeTarget 0 { someWrite with line := 5 } = some (held 3 5) ∧ (s.area 0).queue = [] ++ [held 3 5] := by decide +kernel

theorem premises_JoinedWriteDecided_posting :
    let s (n : Nat) := (nearlyFull n).setContext 0 .idle
    (s 3).takesRequest 0 ∧ ((s 3).master 0).joinedArea = some 0 ∧ ((s 3).area 0).state = .joined ∧
      (s 3).mergeTarget 0 someWrite = none ∧ ((s 3).area 0).occupancy < ((s 3).area 0).size ∧
      (s 4).takesRequest 0 ∧ (s 4).mergeTarget 0 someWrite = none ∧ ¬ ((s 4).area 0).occupancy < ((s 4).area 0).size := by decide +kernel

theorem premises_ThroughWriteDecided :
    let s := posted two 0 [held 9 5]
    s.takesRequest 2 ∧ (s.master 2).joinedArea = none ∧
      (∃ a, ((halted s).area a).state = .halted ∧ ∃ e ∈ ((halted s).area a).queue, e.line = 5) ∧
      (¬ ∃ a, (s.area a).state = .halted ∧ ∃ e ∈ (s.area a).queue, e.line = 6) ∧
      ((∀ a, ∀ e ∈ (s.area a).queue, e.line = 6 → s.nextPlace ≤ e.place) ∧ ∀ t, ∀ tr ∈ (s.tag t).transaction, tr.request.line ≠ 6) ∧
      ¬ ∀ a, ∀ e ∈ (s.area a).queue, e.line = 5 → s.nextPlace ≤ e.place := by decide +kernel

theorem premises_CoveredReadForwarded :
    let s := posted (posted two 0 [held 3 5]) 1 [held 4 5]
    s.takesRequest 2 ∧ s.fullyCovered 5 1 := by decide +kernel

theorem premises_UncoveredReadDecided :
    let s := posted two 0 [held 3 5]
    s.takesRequest 2 ∧ ¬ s.fullyCovered 5 3 ∧ ¬ s.fullyCovered 6 1 ∧ ¬ (halted s).fullyCovered 5 3 ∧ ((halted s).area 0).state = .halted ∧
      (∀ a, (s.area a).state ≠ .halted) ∧ (∀ a, ∀ e ∈ (s.area a).queue, e.line ≠ 6) ∧
      ∀ t, ∀ tr ∈ (s.tag t).transaction, tr.request.line ≠ 6 := by decide +kernel

theorem premises_SyncDecided :
    let s := posted two 0 [held 3 5]
    (halted s).takesRequest 0 ∧ ((halted s).master 0).joinedArea = some 0 ∧ ((halted s).area 0).state = .halted ∧
      s.takesRequest 0 ∧ (s.area 0).state ≠ .halted ∧ (s.area 0).queue ≠ [] ∧ two.takesRequest 0 ∧ (two.area 0).queue = [] ∧
      (leaving s).takesRequest 0 ∧ ((leaving s).master 0).joinedArea = none ∧ ((leaving s).master 0).detachingArea = some 0 ∧
      two.takesRequest 2 ∧ (two.master 2).joinedArea = none ∧ (two.master 2).detachingArea = none := by decide +kernel

theorem premises_AnswerDelivered :
    (two.send 0 .okay).resetHeld = false ∧ (two.send 0 .okay).responses = { master := 0, body := .okay } :: [] ∧ two.responses = [] := by
  decide +kernel

theorem offered_head : (posted two 0 [held 3 5]).offered 0 = true ∧ (posted two 0 [held 3 5]).urgent 0 = false := by decide +kernel

theorem urgent_area : ((posted two 0 [held 3 5]).setContext 0 (.syncWait 10)).urgent 0 = true := by decide +kernel

theorem premises_BlockedByNamesFirst :
    let s := posted (posted two 0 [held 4 5]) 1 [held 3 5]
    s.QueuesOrdered ∧ s.blockedBy 0 = some 1 ∧ s.blockedBy 1 = none := by decide +kernel

theorem premises_ArbiterChoice :
    (posted two 0 [held 3 5]).chosen = some (.area 0) ∧ (readHeld true).chosen = some (.master 2) ∧ two.chosen = none := by decide +kernel

theorem premises_ArbiterGrantIssues :
    let s := posted two 0 [held 3 5]
    s.memoryReady ≠ .withdrawn ∧ s.resetHeld = false ∧ s.tag 0 = .free ∧ (∀ u, u < (0 : TagId) → s.tag u ≠ .free) ∧
      (onTag 1).tag 1 = .free ∧ (∀ u, u < (1 : TagId) → (onTag 1).tag u ≠ .free) ∧
      s.chosen = some (.area 0) ∧ (s.area 0).head = some (held 3 5) ∧
      (throughHeld true).chosen = some (.master 2) ∧ (throughHeld true).context 2 = .throughWait (someThrough 4) .inHold ∧
      (readHeld true).chosen = some (.master 2) ∧ (readHeld true).context 2 = .readWait { line := 5, mask := 1 } .inHold ∧
      (blocked s).memoryReady = .withdrawn ∧ two.chosen = none := by decide +kernel

theorem premises_ArbiterFrame :
    let s := posted (readHeld true) 0 [held 3 6]
    s.QueuesOrdered ∧ (s.arbitrate.area 0).queue = [{ held 3 6 with state := .issued 1, attempts := 1 }] ∧
      s.arbitrate.context 2 = .readWait { line := 5, mask := 1 } (.issued 0) ∧ s.arbitrate.holdList = [] := by decide +kernel

theorem premises_ReadyAndLinger :
    let s := lingering 3
    Ready.readyFor 0 ≠ .withdrawn ∧ s.resetHeld = false ∧ (s.area 0).head = some (held 3 5) ∧ (s.area 0).linger ≠ 0 ∧
      s.now + 1 < 0 + (s.area 0).linger ∧ s.pending = [] ∧ (∀ t, ∀ tr ∈ (s.tag t).transaction, 0 + (s.area 0).linger ≤ tr.deadline) ∧
      (∀ k, s.now < k → k < 0 + (s.area 0).linger → ({ s with now := k } : State).arbitrate = { s with now := k }) ∧
      0 + (s.area 0).linger ≤ { s with now := 3 }.now := by
  refine ⟨by decide, rfl, by decide +kernel, by decide +kernel, by decide +kernel, rfl, by decide +kernel, ?_, by decide +kernel⟩
  intro k h1 h2
  have h2 : k < 3 := h2
  have h1 : 0 < k := h1
  interval_cases k <;> decide +kernel

theorem premises_UnmatchedCompletion :
    two.resetHeld = false ∧ two.tag 0 = .free ∧ (two.setTag 3 (.stale true)).tag 3 = .stale true := by decide +kernel

theorem premises_DoneRetiresEntry :
    ∃ tr, (onTag 1).resetHeld = false ∧ (onTag 1).tag 0 = .busy tr ∧ tr.user = .entry 0 (sent 3 5 1).place ∧
      ((onTag 1).area 0).entryAt 3 = some (sent 3 5 1) ∧ (sent 3 5 1).place < (onTag 1).nextPlace :=
  ⟨_, by decide +kernel, rfl, by decide +kernel, by decide +kernel, by decide +kernel⟩

/-- The entry of strictOnTag. -/
def strictSent (attempts : Nat) : Entry := { sent 3 5 attempts with strict := true }

/-- Tag 0 is busy with this entry of area 0, outside reset. -/
abbrev out (s : State) (e : Entry) : Prop :=
  s.resetHeld = false ∧ (s.tag 0).transaction.map Transaction.user = some (.entry 0 e.place) ∧ (s.area 0).entryAt e.place = some e

theorem premises_FailedAttemptDecided :
    out (onTag 1) (sent 3 5 1) ∧ (sent 3 5 1).attempts ≤ ((onTag 1).area 0).retry ∧ ((onTag 1).area 0).pendingOp = none ∧
      out (onTag 2) (sent 3 5 2) ∧ ((onTag 2).area 0).retry < (sent 3 5 2).attempts ∧
      out (withOp (onTag 1) (.purge 4)) (sent 3 5 1) ∧ ((withOp (onTag 1) (.purge 4)).area 0).pendingOp = some (.purge 4) ∧
      out (halted (strictOnTag 1)) (strictSent 1) ∧ ((halted (strictOnTag 1)).area 0).state = .halted ∧
      (strictSent 1).attempts ≤ ((halted (strictOnTag 1)).area 0).retry ∧ ((halted (strictOnTag 1)).area 0).pendingOp = none := by
  decide +kernel

theorem premises_FinalFailureHandled :
    ((onTag 2).area 0).master = some 0 ∧ ((onTag 2).area 0).policy = .carryOn ∧ ((onTag 2).area 0).state = .joined ∧
      ((change (onTag 2) 0 fun r => { r with policy := .halt }).area 0).policy = .halt ∧
      ((change (onTag 2) 0 fun r => { r with policy := .discard }).area 0).policy = .discard ∧
      ((leaving (onTag 2)).area 0).state ≠ .joined := by decide +kernel

/-- Master 0 has an answer in this state's halt of area 0. -/
abbrev answeredByHalt (s : State) (body : AnswerBody) : Prop :=
  s.HoldAgrees ∧ (s.area 0).master = some 0 ∧ (s.haltArea 0).responses = [{ master := 0, body := body }]

theorem premises_HaltReachesWaiters :
    let s := posted two 0 [held 3 5]
    ((withOp s (.drain 4)).area 0).pendingOp = some (.drain 4) ∧
      answeredByHalt (nearlyFull 4) (.error .halted) ∧
      answeredByHalt ((posted two 0 [{ held 3 5 with strict := true }]).setContext 0 (.strictWait 3)) (.error .halted) ∧
      answeredByHalt (s.setContext 0 (.syncWait 10)) (.error .halted) ∧
      answeredByHalt ((s.charge 0 3 5 .fail).setContext 0 (.syncWait 10)) (.deferred 3 (some { line := 5, cause := .fail })) := by
  decide +kernel

theorem premises_HaltReachesWaiters_held :
    let answers (s : State) := ((posted s 0 [held 3 5]).haltArea 0).responses
    let refused : List Answer := [{ master := 2, body := .error .halted }]
    (readHeld false).HoldAgrees ∧ answers (readHeld false) = refused ∧ answers (throughHeld false) = refused ∧
      answers (readHeld true) = [] ∧ ((posted (throughHeld false) 0 [held 4 5]).haltArea 0).responses = [] := by decide +kernel

theorem premises_MasterRequestAnswered :
    readOut.resetHeld = false ∧ (readOut.tag 3).transaction.map Transaction.user = some (.master 2) ∧
      readOut.context 2 = .readWait { line := 5, mask := 1 } (.issued 3) ∧
      (throughOut.tag 3).transaction.map Transaction.user = some (.master 2) ∧
      throughOut.context 2 = .throughWait (someThrough 4) (.issued 3) := by decide +kernel

theorem premises_RecordMade :
    (logged two 15).faultLog.length < 16 ∧ ¬ (logged two 16).faultLog.length < 16 ∧ (logged two 16).overflowEscalates = false ∧
      { logged two 16 with overflowEscalates := true }.overflowEscalates = true := by decide

/-- Every other tag is STALE. -/
def lastBusy : State :=
  { onTag 1 with tags := (Vector.replicate 8 (.stale true)).set 0 ((onTag 1).tag 0) }

theorem premises_ExpiryMakesTagStale_time :
    let s := { onTag 1 with now := 498 }
    ∃ tr, s.tag 0 = .busy tr ∧ tr.started + tr.timeout = 500 ∧ s.now + 1 < 500 ∧ s.pending = [] ∧
      (∀ x, ∀ y ∈ (s.tag x).transaction, 500 ≤ y.started + y.timeout) ∧
      (∀ k, s.now < k → k < 500 → ({ s with now := k } : State).arbitrate = { s with now := k }) ∧ 500 ≤ { s with now := 500 }.now := by
  refine ⟨_, rfl, rfl, by decide, rfl, by decide +kernel, ?_, by decide⟩
  intro k h1 h2
  obtain rfl : k = 499 := Nat.le_antisymm (Nat.le_of_lt_succ h2) h1
  decide +kernel

/-- In these states the timers have run out, so that EXPIRY takes them as they are. -/
theorem premises_ExpiryMakesTagStale :
    let due (s : State) : State := { s with now := 500 }
    out (due (onTag 1)) (sent 3 5 1) ∧ (∀ u, u ≠ 0 → ((due lastBusy).tag u).isStale = true) ∧ ((due lastBusy).tag 0).isBusy = true ∧
      ¬ (∀ u, u ≠ 0 → ((due (onTag 1)).tag u).isStale = true) ∧
      ((due readOut).tag 3).transaction.map Transaction.user = some (.master 2) ∧
      (due readOut).context 2 = .readWait { line := 5, mask := 1 } (.issued 3) ∧
      ((due throughOut).tag 3).transaction.map Transaction.user = some (.master 2) ∧
      (due throughOut).context 2 = .throughWait (someThrough 4) (.issued 3) ∧
      ¬ ((due (onTag 1)).area 0).retry < (sent 3 5 1).attempts ∧ ((due (onTag 1)).area 0).pendingOp = none ∧
      out (due (onTag 2)) (sent 3 5 2) ∧ ((due (onTag 2)).area 0).retry < (sent 3 5 2).attempts ∧
      out (due (halted (strictOnTag 1))) (strictSent 1) ∧ ((due (halted (strictOnTag 1))).area 0).state = .halted ∧
      (due (onTag 1)).mode = .running ∧ two.tag 0 = .free := by
  decide +kernel

theorem premises_PostingWaitDecidedAgain :
    let merging := (nearlyFull 3).setContext 0 (.postingWait { someWrite with line := 5 })
    (nearlyFull 3).resetHeld = false ∧ ((nearlyFull 3).area 0).master = some 0 ∧ (nearlyFull 3).context 0 = .postingWait someWrite ∧
      ((nearlyFull 3).area 0).state = .joined ∧ ((nearlyFull 3).area 0).occupancy < ((nearlyFull 3).area 0).size ∧
      (nearlyFull 3).mergeTarget 0 someWrite = none ∧ merging.context 0 = .postingWait { someWrite with line := 5 } ∧
      (merging.area 0).state = .joined ∧ (merging.area 0).occupancy < (merging.area 0).size ∧ merging.mergeTarget 0 { someWrite with line := 5 } = some (held 2 5) ∧
      ¬ ((nearlyFull 4).area 0).occupancy < ((nearlyFull 4).area 0).size := by decide +kernel

theorem premises_WaitersReleased_hold :
    (readHeld false).resetHeld = false ∧ (readHeld false).context 2 = .readWait { line := 5, mask := 1 } .inHold ∧
      (∀ a, ∀ e ∈ ((readHeld false).area a).queue, e.line ≠ 5) ∧ (∀ t, ∀ tr ∈ ((readHeld false).tag t).transaction, tr.request.line ≠ 5) ∧
      (∃ e ∈ ((posted (readHeld false) 0 [held 3 5]).area 0).queue, e.line = 5) ∧
      (throughHeld false).context 2 = .throughWait (someThrough 4) .inHold ∧
      (∀ a, ∀ e ∈ ((posted (throughHeld false) 0 [held 4 5]).area a).queue, e.line = 5 → (someThrough 4).mark ≤ e.place) ∧
      (∃ e ∈ ((posted (throughHeld false) 0 [held 3 5]).area 0).queue, e.line = 5 ∧ ¬ (someThrough 4).mark ≤ e.place) ∧
      (∃ tr ∈ ((busy (throughHeld false) 0 (.master 3) 5).tag 0).transaction, tr.request.line = 5) ∧ two.context 2 = .idle :=
  ⟨rfl, rfl, by decide +kernel, by decide +kernel, by decide +kernel, rfl, by decide +kernel, by decide +kernel, ⟨_, rfl, rfl⟩, rfl⟩

theorem premises_WaitersReleased_sync :
    let s := posted two 0 [held 9 5]
    (s.setContext 0 (.syncWait 9)).context 0 = .syncWait 9 ∧ ((s.setContext 0 (.syncWait 9)).master 0).joinedArea = some 0 ∧
      (∀ e ∈ ((s.setContext 0 (.syncWait 9)).area 0).queue, 9 ≤ e.place) ∧
      (∃ e ∈ ((s.setContext 0 (.syncWait 10)).area 0).queue, e.place < 10) ∧
      ((leaving s).setContext 0 (.syncWait 9)).context 0 = .syncWait 9 ∧ ((leaving s).master 0).joinedArea = none ∧
      ((leaving s).master 0).detachingArea = some 0 ∧ two.context 0 = .idle := by
  decide +kernel

theorem premises_LongOperationsEnd :
    let s := posted two 0 [held 9 5]
    let shut (s : State) : State := { s with mode := .shutdown }
    let op (s : State) := (s.area 0).pendingOp
    two.resetHeld = false ∧ two.mode = .running ∧ ((leaving two).area 0).master = some 0 ∧ ((leaving two).area 0).state = .detaching ∧
      ((leaving two).area 0).queue = [] ∧ op (leaving two) = some .detach ∧ (two.area 0).state ≠ .detaching ∧
      op (withOp (halted s) (.purge 9)) = some (.purge 9) ∧ (∀ e ∈ (s.area 0).queue, 9 ≤ e.place) ∧
      (s.area 0).state = .joined ∧ ((halted s).area 0).state = .halted ∧ (shut (halted s)).mode = .shutdown ∧ (s.area 0).queue ≠ [] ∧
      ((withOp (leaving s) (.purge 9)).area 0).state = .detaching ∧ op (withOp (leaving two) (.purge 9)) = some (.purge 9) ∧
      ((shut (halted two)).area 0).queue = [] ∧ ((shut (halted two)).area 0).master = some 0 ∧
      op (withOp s (.purge 10)) = some (.purge 10) ∧ (∃ e ∈ (s.area 0).queue, e.place < 10) ∧ op two = none ∧
      op (withOp s (.drain 9)) = some (.drain 9) ∧ op (withOp (leaving s) (.drain 9)) = some (.drain 9) ∧
      op (withOp (halted s) (.drain 9)) = some (.drain 9) := by
  decide +kernel

theorem premises_SoftResetEnds :
    let s := { State.reset with mode := .shutdown }
    s.resetHeld = false ∧ (s.mode = .shutdown ∧ (∀ a, (s.area a).state = .free) ∧ ∀ t, (s.tag t).isBusy = false) ∧ two.mode ≠ .shutdown := by
  decide +kernel

theorem premises_ReportsChangeNothing :
    (framed two).takesCommand ∧ (11#8).toNat = (11 : AreaId).val ∧ 12 ≤ (12#8).toNat ∧ (15#8).toNat = (15 : MasterId).val ∧
      16 ≤ (16#8).toNat ∧ (framed (logged two 1)).faultLog = someRecord :: [] ∧ (framed two).faultLog = [] := by decide +kernel

theorem premises_ReadFaultRemovesAtLastByte :
    (framed (logged two 1)).takesCommand ∧ (framed (logged two 1)).faultLog = someRecord :: [] ∧ (framed two).faultLog = [] := by
  decide +kernel

theorem premises_PoolAndGlobalsWritten :
    let s := framed State.reset
    let full : Vector Byte 12 := Vector.replicate 12 32#8
    let much : Vector Byte 12 := full.set 0 36#8
    let odd : Vector Byte 12 := full.set 0 30#8
    let fits (sizes : Vector Byte 12) : Prop := (∀ a : AreaId, (sizes[a]).toNat % 4 = 0 ∧ (sizes[a]).toNat ≤ 128) ∧
      (allAreas.map fun a => (sizes[a]).toNat).sum ≤ 384
    s.takesInRunning ∧ (framed two).takesInRunning ∧ ¬ (∀ a, ((framed two).area a).state = .free ∧ ((framed two).area a).queue = []) ∧
      (∀ a, (s.area a).state = .free ∧ (s.area a).queue = []) ∧ fits full ∧ ¬ fits much ∧ ¬ fits odd ∧
      (0#16).toNat < 1 ∧ 4095 < (4096#16).toNat ∧ 1 < (2#8).toNat ∧ 1 ≤ (1#16).toNat ∧ (4095#16).toNat ≤ 4095 ∧ (1#8).toNat ≤ 1 := by
  decide +kernel

theorem premises_AreaSettingsWritten :
    (framed two).takesInRunning ∧ 12 ≤ (12#8).toNat ∧ 2 < (3#8).toNat ∧ 1 < (2#8).toNat ∧ 3 < (4#8).toNat ∧ 128 < (129#8).toNat ∧
      (11#8).toNat = (11 : AreaId).val ∧ (2#8).toNat ≤ 2 ∧ (1#8).toNat ≤ 1 ∧ (3#8).toNat ≤ 3 ∧ (128#8).toNat ≤ 128 := by decide +kernel

theorem premises_JoinDecided :
    (framed two).takesInRunning ∧ 12 ≤ (12#8).toNat ∧ 16 ≤ (16#8).toNat ∧ (11#8).toNat = (11 : AreaId).val ∧
      (15#8).toNat = (15 : MasterId).val := by decide +kernel

theorem premises_UnjoinBeginsDetach :
    let s := framed two
    s.takesInRunning ∧ (0#8).toNat = (0 : AreaId).val ∧ (s.area 0).state = .joined ∧ (s.area 0).master = some 0 ∧
      (s.area 0).pendingOp = none ∧ s.context 0 = .idle ∧ ((withOp s (.drain 4)).area 0).pendingOp ≠ none ∧
      ((framed (nearlyFull 4)).area 0).master = some 0 ∧ (framed (nearlyFull 4)).context 0 = .postingWait someWrite := by decide +kernel

theorem premises_UnjoinRefusedState :
    (framed two).takesInRunning ∧ ((framed two).area 2).state = .free ∧ (2#8).toNat = (2 : AreaId).val ∧
      ((framed (halted two)).area 0).state = .halted ∧ ((framed (leaving two)).area 0).state = .detaching := by decide +kernel

theorem premises_ResumeDecided :
    (framed (halted two)).takesInRunning ∧ (0#8).toNat = (0 : AreaId).val ∧ ((framed two).area 0).state ≠ .halted ∧
      ((framed (halted two)).area 0).state = .halted ∧ ((framed (halted two)).area 0).pendingOp = none ∧
      ((framed (withOp (halted two) (.purge 4))).area 0).pendingOp = some (.purge 4) := by decide +kernel

theorem premises_PurgeAndDrainTaken :
    let s := framed (posted two 0 [held 9 5])
    s.takesInRunning ∧ (0#8).toNat = (0 : AreaId).val ∧ (s.area 2).state = .free ∧ ((leaving s).area 0).state = .detaching ∧
      ((halted s).area 0).state = .halted ∧ (s.area 0).state = .joined ∧ ((withOp s (.drain 4)).area 0).pendingOp ≠ none ∧
      (s.area 0).pendingOp = none ∧ (∃ e ∈ (s.area 0).queue, e.place < s.nextPlace) ∧
      ∀ e ∈ ((framed two).area 0).queue, (framed two).nextPlace ≤ e.place := by decide +kernel

theorem premises_DropMakesSummary :
    let s := posted two 0 [held 3 5, sent 4 6 1]
    (s.area 0).master = some 0 ∧ (s.area 0).queue.filter Entry.droppable = held 3 5 :: [] ∧
      ∀ e ∈ ((onTag 1).area 0).queue, e.droppable = false := by decide +kernel

theorem premises_ClearMasterClears :
    (framed two).takesCommand ∧ (framed two).mode = .running ∧ 16 ≤ (16#8).toNat ∧ (15#8).toNat = (15 : MasterId).val ∧
      { framed two with mode := .shutdown }.takesCommand ∧ { framed two with mode := .shutdown }.mode = .shutdown := by decide +kernel

theorem premises_FlagsRecordAndTagsCleared : (framed two).takesCommand ∧ (framed two).mode = .running := by decide +kernel

theorem premises_SoftResetTaken :
    (framed State.reset).takesInRunning ∧ (∀ a, ((framed State.reset).area a).state = .free) ∧
      (∀ t, ((framed State.reset).tag t).isBusy = false) ∧ (framed (onTag 1)).takesInRunning ∧
      ∃ t, ((framed (onTag 1)).tag t).isBusy = true := by decide +kernel

theorem premises_SoftResetTakesArea :
    (two.area 2).state = .free ∧ ((leaving two).area 0).state = .detaching ∧ ((withOp (halted two) (.purge 4)).area 0).state = .halted ∧
      ((withOp (halted two) (.purge 4)).area 0).pendingOp = some (.purge 4) ∧ ((halted two).area 0).pendingOp = none ∧
      ((onTag 1).area 0).state = .joined ∧ ((onTag 1).area 0).master = some 0 ∧ ((onTag 1).area 0).queue ≠ [] ∧ (onTag 1).context 0 = .idle ∧
      (nearlyFull 4).context 0 = .postingWait someWrite ∧ ((nearlyFull 4).area 0).queue ≠ [] ∧ (two.area 0).queue = [] ∧
      (two.area 0).pendingOp = none ∧ (two.setContext 0 (.postingWait someWrite)).context 0 = .postingWait someWrite ∧ (1 : AreaId) ≠ 0 := by
  decide +kernel

theorem premises_FramesAndShutdown :
    two.resetHeld = false ∧ two.frame ≠ .abandoned ∧ { two with frame := .abandoned }.frame = .abandoned ∧
      isManagement .identify ∧ two.frame ≠ .command ∧ (framed two).takesCommand ∧
      { framed two with mode := .shutdown }.takesCommand ∧ { framed two with mode := .shutdown }.mode = .shutdown := by decide +kernel

theorem premises_FrameRoundTrip :
    (Instr.join 1 2).wellFormed = true ∧ encodeFrame (.join 1 2) = some [0x10#8, 1#8, 2#8] ∧
      (Instr.unknownCommand 0x40).wellFormed = true ∧ encodeFrame (.unknownCommand 0x40) = some [0x40#8] := by decide +kernel

/-- A state in use, with entries out and held, a request waiting and an answer queued, from which a step is taken. -/
def inUse : State :=
  { posted (busy (readOut.send 4 .okay) 0 (.entry 0 3) 6) 0 [sent 3 6 1, held 4 6] with pending := [.completion 0 0 lineData] }

theorem premises_of_the_invariants :
    (∃ t, step inUse = .next t) ∧ inUse.PoolWithin ∧ inUse.SettingsLegal ∧ inUse.AccountsExact ∧ inUse.LogBounded ∧
      inUse.DrainTagsBounded ∧ inUse.OneTagPerLine ∧ inUse.TagsAgree :=
  ⟨⟨_, rfl⟩, by decide +kernel, by decide +kernel, by decide +kernel, by decide +kernel, by decide +kernel, by decide +kernel,
    by decide +kernel⟩

theorem premises_of_the_invariants_of_ports :
    inUse.QueuesOrdered ∧ inUse.IssuedBounded ∧ inUse.AnswersBounded ∧ inUse.JoinsAgree ∧ inUse.Settled ∧ inUse.HoldAgrees :=
  ⟨by decide +kernel, by decide +kernel, by decide +kernel, by decide +kernel, by decide +kernel, by decide +kernel⟩

theorem premises_ArbiterDoneKept : inUse.TestsMade := by
  have hc : ∀ m, inUse.context m = .idle ∨ inUse.context m = .readWait { line := 5, mask := 1 } (.issued 3) := by decide +kernel
  have ho : ∀ a, (inUse.area a).pendingOp = none := by decide +kernel
  have hd : ∀ a, (inUse.area a).state ≠ .detaching := by decide +kernel
  have hh : inUse.holdList = [] := by decide +kernel
  have hp : ∀ m w, inUse.context m ≠ .postingWait w := fun m w h => by rcases hc m with k | k <;> rw [k] at h <;> cases h
  have hs : ∀ m k, inUse.context m ≠ .syncWait k := fun m w h => by rcases hc m with k | k <;> rw [k] at h <;> cases h
  refine ⟨fun a => ⟨fun m w _ _ h => absurd h (hp m w), fun m k _ h => absurd h (hs m k), fun k h => ?_, fun k h => ?_,
    fun h => absurd h (hd a)⟩, ⟨fun m w h => absurd h (hp m w), fun m k h => absurd h (hs m k)⟩, fun p h => ?_, fun h => ?_⟩
  · rw [ho] at h; cases h
  · rw [ho] at h; cases h
  · rw [hh] at h; cases h
  · cases h

end Sys2Proof.Tests
end

section
/-! UNJOIN on an area that is not JOINED (R16). -/

namespace Sys2Proof.Machine

/-- A refusal without a reply leaves only the frame of the taken command (R117, R120, R121). -/
@[simp] theorem State.refuse_close (s : State) (status : Status) (args : Nat) :
    (s.refuse status 0).close args = s.taken (args + 1) status [] := rfl

theorem exec_unjoin (area : Byte) (s : State) : exec (.unjoin area) s = execUnjoin area s := rfl

/-- Of the four area states, only JOINED passes UNJOIN's state check (R16). -/
theorem AreaState.ne_joined_iff {st : AreaState} : st ≠ .joined ↔ st = .free ∨ st = .halted ∨ st = .detaching := by
  cases st <;> decide

theorem execUnjoin_of_ne_joined {s : State} {area : Byte} {a : AreaId} (hrun : s.takesInRunning) (harea : area.toNat = a.val)
    (hstate : (s.area a).state ≠ .joined) : execUnjoin area s = .next (s.taken 2 .wrongState []) := by
  rw [execUnjoin, State.runningCommand_eq hrun, areaOf_of harea]
  simp [hstate]

/-- Settles O44: an area in one of the three states fails the state check, which comes before every effect of UNJOIN. -/
theorem unjoinRefusedState : Obligations.UnjoinRefusedState := by
  intro s area a hrun harea hstate
  rw [exec_unjoin]
  exact execUnjoin_of_ne_joined hrun harea (AreaState.ne_joined_iff.mpr hstate)

end Sys2Proof.Machine
end

section
/-! The WRITEs that are answered at once and leave everything else as it was: those of no bytes (R20), and those to a HALTED
area (R21). -/

namespace Sys2Proof.Machine

/-! ## A request that the Fabric Port takes -/

/-- A request of an IDLE master at a ready port is decided: neither the port nor the one-request rule turns it away (R6, R148). -/
theorem State.takeRequest_of_takesRequest {s : State} {m : MasterId} (htake : s.takesRequest m) (k : State → State) :
    s.takeRequest m k = k s := by
  obtain ⟨hready, hidle⟩ := htake
  simp [State.takeRequest, hready, hidle]

/-- A ready port has an empty response queue, so the answer sent is the only one in it (R148). -/
theorem State.send_of_fabricReady {s : State} (hready : s.fabricReady = true) (m : MasterId) (body : AnswerBody) :
    s.send m body = { s with responses := [{ master := m, body := body }] } := by
  obtain ⟨hempty, -⟩ := s.fabricReady_iff.mp hready
  simp [State.send, hempty]

/-! ## Steps 2 and 3 of R19 -/

theorem State.decideWrite_of_mask_zero (s : State) (m : MasterId) {w : WriteReq} (hmask : w.mask = 0) :
    s.decideWrite m w = s.send m .okay := if_pos hmask

theorem State.decideWrite_of_halted {s : State} {m : MasterId} {a : AreaId} {w : WriteReq} (hmask : w.mask ≠ 0)
    (hjoin : (s.master m).joinedArea = some a) (hhalted : (s.area a).state = .halted) :
    s.decideWrite m w = s.send m (.error .halted) := by
  rw [State.decideWrite, if_neg hmask, hjoin]
  exact if_pos hhalted

/-! ## The command -/

theorem exec_write (m : MasterId) (line : Line) (mask : Mask) (strict : Bool) (data : LineData) (s : State) :
    exec (.write m line mask strict data) s = execWrite m line mask strict data s := rfl

/-- A taken WRITE that the steps of R19 only answer changes nothing but the response queue. -/
theorem execWrite_of_answered {s : State} {m : MasterId} {line : Line} {mask : Mask} {strict : Bool} {data : LineData}
    {body : AnswerBody} (htake : s.takesRequest m)
    (hdecide : s.decideWrite m { line := line, mask := mask, data := keepMarked mask data, strict := strict } = s.send m body) :
    execWrite m line mask strict data s = .next { s with responses := [{ master := m, body := body }] } := by
  have hready : s.fabricReady = true := htake.left
  rw [execWrite, State.takeRequest_of_takesRequest htake, hdecide, State.send_of_fabricReady hready]

/-- Settles O9: the mask is examined at step 2 of R19, before the master's join and the state of its area. -/
theorem zeroMaskWriteAnswered : Obligations.ZeroMaskWriteAnswered := by
  intro s m line strict data htake
  rw [exec_write]
  exact execWrite_of_answered htake (s.decideWrite_of_mask_zero m rfl)

/-- Settles O10: step 3 of R19 refuses the write before any merge, entry or posting wait. -/
theorem haltedAreaRefusesWrite : Obligations.HaltedAreaRefusesWrite := by
  intro s m a line mask strict data htake hmask hjoin hhalted
  rw [exec_write]
  exact execWrite_of_answered htake (State.decideWrite_of_halted hmask hjoin hhalted)

end Sys2Proof.Machine
end

section
/-! The READ that is answered at once and leaves everything else as it was: the one of no bytes (R41). -/

namespace Sys2Proof.Machine

theorem exec_read (m : MasterId) (line : Line) (mask : Mask) (s : State) :
    exec (.read m line mask) s = execRead m line mask s := rfl

theorem State.decideRead_of_mask_zero (s : State) (m : MasterId) (line : Line) {mask : Mask} (hmask : mask = 0) :
    s.decideRead m line mask = s.send m (.okayData zeroData) := if_pos hmask

/-- A taken READ that the steps of R40 only answer changes nothing but the response queue. -/
theorem execRead_of_answered {s : State} {m : MasterId} {line : Line} {mask : Mask} {body : AnswerBody}
    (htake : s.takesRequest m) (hdecide : s.decideRead m line mask = s.send m body) :
    execRead m line mask s = .next { s with responses := [{ master := m, body := body }] } := by
  have hready : s.fabricReady = true := htake.left
  rw [execRead, State.takeRequest_of_takesRequest htake, hdecide, State.send_of_fabricReady hready]

/-- Settles O14: the mask is examined at step 2 of R40, before coverage, the HALTED areas and the Hold List. -/
theorem zeroMaskReadAnswered : Obligations.ZeroMaskReadAnswered := by
  intro s m line htake
  rw [exec_read]
  exact execRead_of_answered htake (s.decideRead_of_mask_zero m line rfl)

end Sys2Proof.Machine
end

section
/-! CLEAR MASTER, as it is refused and as it clears a master's fault account (R100). -/

namespace Sys2Proof.Machine

/-- DONE without a reply adds only the frame of the taken command to the command's own effect (R117, R121). -/
@[simp] theorem State.done_close (s : State) (args : Nat) : s.done.close args = s.taken (args + 1) .done [] := rfl

theorem exec_clearMaster (master : Byte) (s : State) : exec (.clearMaster master) s = execClearMaster master s := rfl

theorem execClearMaster_of_not_master {s : State} {master : Byte} (hrun : s.takesInRunning) (hrange : 16 ≤ master.toNat) :
    execClearMaster master s = .next (s.taken 2 .range []) := by
  rw [execClearMaster, State.runningCommand_eq hrun, masterOf_eq_none hrange]
  simp

theorem execClearMaster_of_master {s : State} {master : Byte} {m : MasterId} (hrun : s.takesInRunning)
    (hmaster : master.toNat = m.val) :
    execClearMaster master s =
      .next ((s.setMaster m { s.master m with pendingCount := 0, firstFault := none, throughSeen := false }).taken 2 .done []) := by
  rw [execClearMaster, State.runningCommand_eq hrun, masterOf_of hmaster]
  simp

/-- BUSY comes before the check of the master's number (R120, R134). -/
theorem execClearMaster_of_shutdown {s : State} {master : Byte} (htake : s.takesCommand) (hmode : s.mode = .shutdown) :
    execClearMaster master s = .next (s.taken 2 .busy []) := by
  rw [execClearMaster, State.runningCommand_busy htake hmode]

/-- Settles O48: the mode is tested first, then the master's number, and neither test looks at the master's record. -/
theorem clearMasterClears : Obligations.ClearMasterClears := by
  intro s master htake
  rw [exec_clearMaster]
  refine ⟨fun hmode hrange => ?outOfRange, fun m hmode hmaster => ?cleared, fun hmode => ?busy⟩
  case outOfRange => exact execClearMaster_of_not_master ⟨htake, hmode⟩ hrange
  case cleared => exact execClearMaster_of_master ⟨htake, hmode⟩ hmaster
  case busy => exact execClearMaster_of_shutdown htake hmode

end Sys2Proof.Machine
end

section
/-! What every step keeps: the packaged induction over the changes of a step, and the pool with the settings (R1 to R3, R77). -/

namespace Sys2Proof.Machine

/-! ## The packaged induction -/

/-- A property that a change of the Hold List alone does not touch is kept by the entry of a request into it (R36, R46). -/
theorem State.enterHold_induct {P : State → Prop} {s : State} (m : MasterId) (h0 : P s)
    (hold : ∀ (u : State) (l : List HoldPlace), P u → P { u with holdList := l })
    (hissue : ∀ u c t, P u → u.lowestFree = some t → u.chosen = some c → P (u.issue c t))
    (hanswer : ∀ u, P u → P (u.answer m .retry)) : P (s.enterHold m) := by
  have joined (released : Bool) : P (s.joinHold m released).arbitrate :=
    State.arbitrate_induct _ (hold s _ h0) fun u c t hu _ ht hc => hissue u c t hu ht hc
  unfold State.enterHold
  split
  · dsimp only
    split
    · exact joined true
    · exact hanswer _ (hold _ _ (joined true))
  · split
    · exact joined false
    · exact hanswer s h0

/-- What every move keeps, and both turns of a tag by themselves, every step keeps. -/
theorem step_keeps {P : State → Prop} (hmove : ∀ X s t, Move X s t → P s → P t)
    (hfree : ∀ s t tr, s.tag t = .busy tr → P s → P (s.setTag t .free))
    (hstale : ∀ s t tr, s.tag t = .busy tr → P s → P (s.setTag t (.stale tr.user.isEntry))) {s s' : State}
    (h : step s = .next s') (hs : P s) : P s' :=
  (step_changes h).keeps_of_moves hmove hfree hstale hs

/-! ## The area records -/

/-- An issue keeps the length of every queue (R11, R69). -/
theorem State.issue_queue_length (s : State) (c : Claimant) (t : TagId) (a : AreaId) :
    ((s.issue c t).area a).queue.length = (s.area a).queue.length := by
  simpa using congrArg List.length (s.issue_places c t a)

/-- An issue changes nothing of an area's record but its queue (R69). -/
theorem State.issue_area (s : State) (c : Claimant) (t : TagId) (a : AreaId) :
    (s.issue c t).area a = { s.area a with queue := ((s.issue c t).area a).queue } :=
  ((s.issue_spec c t).left a).left

theorem State.area_of_areas {s t : State} (h : t.areas = s.areas) (a : AreaId) : t.area a = s.area a := by
  simp only [State.area, h]

theorem State.endDetach_area (s : State) (a b : AreaId) :
    (s.endDetach a).area b = s.area b ∨ b = a ∧ (s.endDetach a).area b = (s.area a).detached := by
  by_cases hb : b = a
  · subst hb
    unfold State.endDetach
    split
    · right
      split <;> simp
    · exact .inl rfl
  · exact .inl (s.endDetach_area_of_ne a b hb)

theorem State.joinMaster_area (s : State) (a b : AreaId) (m : MasterId) :
    (s.joinMaster a m).area b = if b = a then { s.area a with state := .joined, master := some m } else s.area b := by
  simp [State.joinMaster]

theorem State.joinMaster_master (s : State) (a : AreaId) (m n : MasterId) :
    (s.joinMaster a m).master n = if n = m then { s.master m with joinedArea := some a } else s.master n := by
  simp [State.joinMaster]

theorem State.setSizes_area (s : State) (sizes : Vector Byte 12) (a : AreaId) :
    (s.setSizes sizes).area a = { s.area a with size := (sizes[a]).toNat } := by
  simp [State.setSizes, State.area]

theorem AreaRec.detached_settings (r : AreaRec) :
    r.detached.size = r.size ∧ r.detached.retry = r.retry ∧ r.detached.linger = r.linger ∧ r.detached.highWater = r.highWater := by
  unfold AreaRec.detached
  dsimp only
  split <;> exact ⟨rfl, rfl, rfl, rfl⟩

/-! ## The pool -/

/-- The checks of SET POOL on the sizes (R2). -/
theorem poolFits_iff (sizes : Vector Byte 12) :
    poolFits sizes = true ↔ (∀ a : AreaId, (sizes[a]).toNat % 4 = 0 ∧ (sizes[a]).toNat ≤ 128) ∧
      (allAreas.map fun a => (sizes[a]).toNat).sum ≤ 384 := by
  have hlist : sizes.toList = allAreas.map fun a => sizes[a] := by
    apply List.ext_getElem <;> simp [allAreas]
  change _ ↔ (∀ a : AreaId, _ ∧ _ ≤ Config.maxAreaSize) ∧ _ ≤ Config.slots
  simp only [poolFits, hlist, List.all_map, List.map_map, Bool.and_eq_true, List.all_eq_true,
    mem_allAreas, forall_true_left, Function.comp_def, beq_iff_eq, decide_eq_true_eq]

theorem State.PoolWithin.of_queues {s t : State} (h : s.PoolWithin) (hsize : ∀ a, (t.area a).size = (s.area a).size)
    (hqueue : ∀ a, (t.area a).queue.length ≤ (s.area a).queue.length ∨ (t.area a).queue.length ≤ (s.area a).size) :
    t.PoolWithin := by
  obtain ⟨hareas, hsum⟩ := h
  refine ⟨fun a => ?_, by simpa only [hsize] using hsum⟩
  obtain ⟨hmod, hmax, hocc⟩ := hareas a
  rw [hsize a]
  exact ⟨hmod, hmax, (hqueue a).elim (·.trans hocc) id⟩

theorem State.PoolWithin.of_areas {s t : State} (h : s.PoolWithin) (ha : t.areas = s.areas) : t.PoolWithin :=
  h.of_queues (fun a => by rw [State.area_of_areas ha]) fun a => .inl (by rw [State.area_of_areas ha])

theorem State.PoolWithin.of_setArea {s t : State} {a : AreaId} {r : AreaRec} (h : s.PoolWithin)
    (ht : ∀ b, t.area b = if b = a then r else s.area b) (hsize : r.size = (s.area a).size)
    (hqueue : r.queue.length ≤ (s.area a).queue.length ∨ r.queue.length ≤ (s.area a).size) : t.PoolWithin := by
  refine h.of_queues (fun b => ?_) fun b => ?_ <;> rw [ht b] <;> split
  · next hb => rw [hb, hsize]
  · rfl
  · next hb => rw [hb]; exact hqueue
  · exact .inl le_rfl

/-- The reset sizes fill the pool exactly (R1, R3). -/
theorem poolWithin_of_reset {t : State} (h : ∀ a, (t.area a).size = 32 ∧ (t.area a).queue = []) : t.PoolWithin := by
  refine ⟨fun a => ?_, ?_⟩
  · obtain ⟨hsize, hqueue⟩ := h a
    simp [hsize, AreaRec.occupancy, hqueue, Config.maxAreaSize]
  · simp [h, allAreas, Config.slots]

theorem poolWithin_reset : State.reset.PoolWithin :=
  poolWithin_of_reset fun a => by rw [State.reset_area]; exact ⟨rfl, rfl⟩

/-- The sizes of SET POOL have passed its checks, and every area is empty (R2). -/
theorem poolWithin_setSizes {s : State} {sizes : Vector Byte 12} (hempty : ∀ a, (s.area a).queue = [])
    (hfits : poolFits sizes = true) : (s.setSizes sizes).PoolWithin := by
  obtain ⟨hlegal, hsum⟩ := (poolFits_iff sizes).mp hfits
  refine ⟨fun a => ?_, by simpa only [State.setSizes_area, Config.slots] using hsum⟩
  obtain ⟨hmod, hmax⟩ := hlegal a
  rw [State.setSizes_area]
  exact ⟨hmod, hmax, by simp [AreaRec.occupancy, hempty]⟩

theorem State.PoolWithin.issue {s : State} (h : s.PoolWithin) (c : Claimant) (t : TagId) : (s.issue c t).PoolWithin :=
  h.of_queues (fun a => by rw [s.issue_area c t a]) fun a => .inl (s.issue_queue_length c t a).le

theorem State.PoolWithin.move {X : Option TagUser} {s t : State} (hm : Move X s t) (h : s.PoolWithin) : t.PoolWithin := by
  cases hm with
  | issue c t => exact h.issue c t
  | enter m c =>
    exact State.enterHold_induct m (h.of_areas rfl) (fun _ _ hu => hu.of_areas rfl) (fun _ c t hu _ _ => hu.issue c t)
      fun _ hu => hu.of_areas rfl
  | post m a w hj hh hroom => exact h.of_setArea (s.postEntry_area a · w) rfl (.inr (by rw [List.length_append]; exact hroom))
  | retire a keep => exact h.of_setArea (s.setQueue_area a · _) rfl (.inl (List.length_filter_le _ _))
  | reissue a place => exact h.of_setArea (s.updateEntry_area a · place _) rfl (.inl (by simp))
  | merge a q e w htail => exact h.of_setArea (s.setQueue_area a · _) rfl (.inl (by simp [htail]))
  | halt a | resume a | operation a | settings a | enlist a => exact h.of_setArea (s.setArea_area a · _) rfl (.inl le_rfl)
  | beginDetach a o => exact h.of_setArea (s.beginDetach_area a · o) rfl (.inl le_rfl)
  | join a m => exact h.of_setArea (s.joinMaster_area a · m) rfl (.inl le_rfl)
  | endDetach a =>
    refine h.of_queues (fun b => ?_) fun b => .inl (by rw [s.endDetach_queue a b])
    obtain hb | ⟨rfl, hb⟩ := s.endDetach_area a b <;> rw [hb]
    exact (s.area b).detached_settings.left
  | sizes v hf hv => exact poolWithin_setSizes (fun a => (hf a).right) hv
  | finishSoftReset =>
    exact poolWithin_of_reset fun a => by rw [State.finishSoftReset_area]; exact ⟨rfl, rfl⟩
  | pinReset | powerOn => exact poolWithin_reset.of_areas rfl
  | _ => exact h.of_areas (by simp [State.answer, State.setContext])

/-! ## The settings -/

theorem State.SettingsLegal.of_settings {s t : State} (h : s.SettingsLegal) (ht : t.timeout = s.timeout)
    (ha : ∀ a, (t.area a).retry = (s.area a).retry ∧ (t.area a).linger = (s.area a).linger ∧
      (t.area a).highWater = (s.area a).highWater) : t.SettingsLegal := by
  obtain ⟨hareas, htimeout⟩ := h
  refine ⟨fun a => ?_, by rwa [ht]⟩
  obtain ⟨hretry, hlinger, hhigh⟩ := ha a
  rw [hretry, hlinger, hhigh]
  exact hareas a

theorem State.SettingsLegal.of_areas {s t : State} (h : s.SettingsLegal) (ht : t.timeout = s.timeout) (ha : t.areas = s.areas) :
    t.SettingsLegal :=
  h.of_settings ht fun a => by rw [State.area_of_areas ha]; exact ⟨rfl, rfl, rfl⟩

theorem State.SettingsLegal.of_setArea {s t : State} {a : AreaId} {r : AreaRec} (h : s.SettingsLegal) (htime : t.timeout = s.timeout)
    (ht : ∀ b, t.area b = if b = a then r else s.area b)
    (hr : r.retry ≤ 3 ∧ r.linger ≤ 255 ∧ r.highWater ≤ Config.maxAreaSize) : t.SettingsLegal := by
  obtain ⟨hareas, htimeout⟩ := h
  refine ⟨fun b => ?_, by rwa [htime]⟩
  rw [ht b]
  split
  · exact hr
  · exact hareas b

theorem State.SettingsLegal.issue {s : State} (h : s.SettingsLegal) (c : Claimant) (t : TagId) : (s.issue c t).SettingsLegal :=
  h.of_settings (by simp) fun a => by rw [s.issue_area c t a]; exact ⟨rfl, rfl, rfl⟩

theorem settingsLegal_of_reset {t : State} (htime : t.timeout = 500)
    (h : ∀ a, (t.area a).retry = 1 ∧ (t.area a).linger = 0 ∧ (t.area a).highWater = 0) : t.SettingsLegal := by
  refine ⟨fun a => ?_, by omega, by omega⟩
  obtain ⟨hretry, hlinger, hhigh⟩ := h a
  omega

theorem settingsLegal_reset : State.reset.SettingsLegal :=
  settingsLegal_of_reset rfl fun a => by rw [State.reset_area]; exact ⟨rfl, rfl, rfl⟩

theorem State.SettingsLegal.move {X : Option TagUser} {s t : State} (hm : Move X s t) (h : s.SettingsLegal) : t.SettingsLegal := by
  cases hm with
  | issue c t => exact h.issue c t
  | enter m c =>
    exact State.enterHold_induct m (h.of_areas rfl rfl) (fun _ _ hu => hu.of_areas rfl rfl)
      (fun _ c t hu _ _ => hu.issue c t) fun _ hu => hu.of_areas rfl rfl
  | settings a p e retry linger highWater merge hr hl hw => exact h.of_setArea rfl (s.setArea_area a · _) ⟨hr, hl, hw⟩
  | globals timeout arb ovf mask h1 h2 => exact ⟨h.left, h1, h2⟩
  | post m a w => exact h.of_setArea rfl (s.postEntry_area a · w) (h.left a)
  | retire a keep | merge a q e w => exact h.of_setArea rfl (s.setQueue_area a · _) (h.left a)
  | reissue a place => exact h.of_setArea rfl (s.updateEntry_area a · place _) (h.left a)
  | halt a | resume a | operation a | enlist a => exact h.of_setArea rfl (s.setArea_area a · _) (h.left a)
  | beginDetach a o => exact h.of_setArea (by simp) (s.beginDetach_area a · o) (h.left a)
  | join a m => exact h.of_setArea rfl (s.joinMaster_area a · m) (h.left a)
  | endDetach a =>
    refine h.of_settings (by simp) fun b => ?_
    obtain hb | ⟨rfl, hb⟩ := s.endDetach_area a b <;> rw [hb]
    · exact ⟨rfl, rfl, rfl⟩
    · exact (s.area b).detached_settings.right
  | sizes v => exact h.of_settings rfl fun a => by rw [State.setSizes_area]; exact ⟨rfl, rfl, rfl⟩
  | finishSoftReset =>
    exact settingsLegal_of_reset rfl fun a => by rw [State.finishSoftReset_area]; exact ⟨rfl, rfl, rfl⟩
  | pinReset | powerOn => exact settingsLegal_reset.of_areas rfl rfl
  | _ => exact h.of_areas (by simp) (by simp [State.answer, State.setContext])

/-- Settles O54, by the moves of a step: the sizes and settings are written only after their checks, and a queue grows only by an
entry for which its area has a slot. -/
theorem poolAndSettingsKept : Obligations.PoolAndSettingsKept := by
  intro s s' hstep
  exact ⟨step_keeps (fun _ _ _ hm h => h.move hm) (fun _ _ _ _ h => h.of_areas rfl) (fun _ _ _ _ h => h.of_areas rfl) hstep,
    step_keeps (fun _ _ _ hm h => h.move hm) (fun _ _ _ _ h => h.of_areas rfl rfl)
      (fun _ _ _ _ h => h.of_areas rfl rfl) hstep⟩

end Sys2Proof.Machine
end

section
/-! The Fault Unit's records (R102, R104, R105) and the fault accounts that every step keeps (R5, R98). -/

namespace Sys2Proof.Machine

/-! ## Records -/

theorem Event.flag_eq : Event.flag .fault = 0x001#11 ∧ Event.flag .overflow = 0x002#11 ∧ Event.flag .halt = 0x004#11 ∧
    Event.flag .detached = 0x008#11 ∧ Event.flag .purged = 0x010#11 ∧ Event.flag .drained = 0x020#11 ∧
    Event.flag .stale = 0x040#11 ∧ Event.flag .exhausted = 0x080#11 ∧ Event.flag .through = 0x100#11 ∧
    Event.flag .shutdownDone = 0x200#11 ∧ Event.flag .escalated = 0x400#11 := by
  decide

/-- An escalation asserts RSTREQ and sets ESCALATED (R115). -/
theorem State.escalation_eq (s : State) : s.escalation = { s with rstreq := true, events := s.events ||| 0x400#11 } := rfl

theorem State.makeRecord_of_room {s : State} (r : FaultRecord) (h : s.faultLog.length < 16) :
    s.makeRecord r =
      { s with faultLog := s.faultLog ++ [{ r with number := s.recordCounter }], recordCounter := s.recordCounter + 1
               events := s.events ||| 0x001#11 } :=
  if_pos h

/-- In a full log the record is lost (R105). -/
theorem State.makeRecord_of_full {s : State} (r : FaultRecord) (h : ¬ s.faultLog.length < 16) :
    s.makeRecord r =
      ({ s with recordCounter := s.recordCounter + 1, events := s.events ||| 0x001#11 } : State).loseRecord r.entries :=
  if_neg h

/-- A lost record counts with its entries, sets OVERFLOW, and escalates if the setting asks for it (R105, R115). -/
theorem State.loseRecord_eq (s : State) (entries : Nat) :
    s.loseRecord entries =
      { s with
        overflowCount := min 65535 (s.overflowCount + entries), rstreq := s.overflowEscalates || s.rstreq
        events := s.events ||| if s.overflowEscalates then 0x402#11 else 0x002#11 } := by
  unfold State.loseRecord State.raise
  dsimp only
  rw [Event.flag_eq.2.1]
  cases h : s.overflowEscalates
  · simp [Config.overflowMax]
  · simp [State.escalation_eq, Config.overflowMax, BitVec.or_assoc]

/-- Settles O32: with room the record is stored, and in a full log it is lost, by the setting "overflow escalates". -/
theorem recordMade : Obligations.RecordMade := by
  intro s r
  refine ⟨State.makeRecord_of_room r, fun hfull hesc => ?quiet, fun hfull hesc => ?escalates⟩ <;>
    rw [State.makeRecord_of_full r hfull, State.loseRecord_eq]
  case quiet => simp [hesc, BitVec.or_assoc]
  case escalates => simp [hesc, BitVec.or_assoc]

/-! ## The accounts -/

theorem State.AccountsExact.of_accounts {s t : State} (h : s.AccountsExact)
    (hm : ∀ m, (t.master m).pendingCount = (s.master m).pendingCount ∧ (t.master m).firstFault = (s.master m).firstFault) :
    t.AccountsExact := by
  intro m
  obtain ⟨hcount, hfirst⟩ := hm m
  rw [hcount, hfirst]
  exact h m

theorem State.AccountsExact.of_masters {s t : State} (h : s.AccountsExact) (hm : t.masters = s.masters) : t.AccountsExact :=
  h.of_accounts fun m => by simp [State.master, hm]

theorem State.AccountsExact.of_setMaster {s t : State} {m : MasterId} {r : MasterRec} (h : s.AccountsExact)
    (ht : ∀ n, t.master n = if n = m then r else s.master n)
    (hr : r.pendingCount ≤ Config.pendingMax ∧ (r.firstFault.isSome ↔ 0 < r.pendingCount)) : t.AccountsExact := by
  intro n
  rw [ht n]
  split
  · exact hr
  · exact h n

theorem State.AccountsExact.issue {s : State} (h : s.AccountsExact) (c : Claimant) (t : TagId) : (s.issue c t).AccountsExact :=
  h.of_accounts fun m => by
    obtain ⟨hm, -⟩ := (s.issue_spec c t).right.left m
    rw [hm]
    exact ⟨rfl, rfl⟩

theorem State.AccountsExact.answer {s : State} (h : s.AccountsExact) (m : MasterId) (body : AnswerBody) :
    (s.answer m body).AccountsExact :=
  h.of_setMaster (s.answer_master m · body) (h m)

theorem accountsExact_reset : State.reset.AccountsExact := by
  intro m
  rw [State.reset_master]
  decide

theorem State.AccountsExact.move {X : Option TagUser} {s t : State} (hm : Move X s t) (h : s.AccountsExact) : t.AccountsExact := by
  cases hm with
  | charge m k line cause hk =>
    refine h.of_setMaster (s.charge_master m · k line cause) ⟨Nat.min_le_left _ _, ?_⟩
    have hpos : 0 < min Config.pendingMax ((s.master m).pendingCount + k) := Nat.lt_min.mpr ⟨by decide, by omega⟩
    simp [hpos]
  | clearAccount m => exact h.of_setMaster (s.clearAccount_master m ·) (by simp)
  | clearMaster m => exact h.of_setMaster (s.setMaster_master m · _) (by simp)
  | through m => exact h.of_setMaster (s.setMaster_master m · _) (h m)
  | issue c t => exact h.issue c t
  | enter m c =>
    exact State.enterHold_induct m (h.of_setMaster (s.setContext_master m · c) (h m)) (fun _ _ hu => hu.of_masters rfl)
      (fun _ c t hu _ _ => hu.issue c t) fun _ hu => hu.answer m .retry
  | answer m body => exact h.answer m body
  | wait m c => exact h.of_setMaster (s.setContext_master m · c) (h m)
  | join a m => exact h.of_setMaster (s.joinMaster_master a m ·) (h m)
  | refuseHolds a => exact h.of_accounts fun m => by rw [State.refuseHolds_master_eq]; exact ⟨rfl, rfl⟩
  | beginDetach a o => exact h.of_accounts fun m => by rw [State.beginDetach_master]; split <;> exact ⟨rfl, rfl⟩
  | endDetach a =>
    refine h.of_accounts fun m => ?_
    obtain hm | ⟨-, -, -, hm⟩ := s.endDetach_master a m <;> rw [hm] <;> exact ⟨rfl, rfl⟩
  | pinReset | powerOn => exact accountsExact_reset.of_masters rfl
  | _ => exact h.of_masters (by simp [State.setSizes])

/-! ## The Fault Log -/

theorem State.LogBounded.of_log {s t : State} (h : s.LogBounded) (hl : t.faultLog.length ≤ s.faultLog.length)
    (ho : t.overflowCount = s.overflowCount) : t.LogBounded :=
  ⟨hl.trans h.left, ho.trans_le h.right⟩

theorem State.LogBounded.makeRecord {s : State} (h : s.LogBounded) (r : FaultRecord) : (s.makeRecord r).LogBounded := by
  obtain ⟨hlog, hover⟩ := h
  by_cases hroom : s.faultLog.length < 16
  · rw [State.makeRecord_of_room r hroom]
    exact ⟨by simpa [Config.logRecords] using hroom, hover⟩
  · rw [State.makeRecord_of_full r hroom, State.loseRecord_eq]
    exact ⟨hlog, Nat.min_le_left _ _⟩

theorem logBounded_reset : State.reset.LogBounded := ⟨by decide, by decide⟩

theorem State.LogBounded.move {X : Option TagUser} {s t : State} (hm : Move X s t) (h : s.LogBounded) : t.LogBounded := by
  cases hm with
  | record r => exact h.makeRecord r
  | popRecord => exact h.of_log (by simp) rfl
  | pinReset | powerOn => exact logBounded_reset.of_log le_rfl rfl
  | _ => exact h.of_log (by simp [State.joinMaster, State.setSizes]) (by simp [State.joinMaster, State.setSizes])

/-- Settles O55, by the moves of a step: a charge is of at least one entry and sets an absent first fault, a clearing takes count and
first fault together, and a record is stored only where the log has room. -/
theorem faultAccountsKept : Obligations.FaultAccountsKept := by
  intro s s' hstep
  exact ⟨step_keeps (fun _ _ _ hm h => h.move hm) (fun _ _ _ _ h => h.of_masters rfl) (fun _ _ _ _ h => h.of_masters rfl) hstep,
    step_keeps (fun _ _ _ hm h => h.move hm) (fun _ _ _ _ h => h.of_log le_rfl rfl) (fun _ _ _ _ h => h.of_log le_rfl rfl) hstep⟩

end Sys2Proof.Machine
end

section
/-! The views of the Drain Engine, each as the statement it stands for: the head, its offer, urgency and Blocked-by (R55 to R64). -/

namespace Sys2Proof.Machine

/-! ## The head and its offer -/

theorem Entry.isIssued_eq_false_iff (e : Entry) : e.isIssued = false ↔ ∀ t, e.state ≠ .issued t := by
  simpa using bool_eq_false_iff e.isIssued_iff

theorem AreaRec.head_eq_some_iff (r : AreaRec) (h : Entry) :
    r.head = some h ↔ (∀ t, h.state ≠ .issued t) ∧
      ∃ before after, r.queue = before ++ h :: after ∧ ∀ e ∈ before, ∃ t, e.state = .issued t := by
  simp only [AreaRec.head, List.find?_eq_some_iff_append, Bool.not_eq_true', Entry.isIssued_eq_false_iff, Bool.not_not,
    Entry.isIssued_iff]

theorem AreaRec.head_eq_none_iff (r : AreaRec) : r.head = none ↔ ∀ e ∈ r.queue, ∃ t, e.state = .issued t := by
  simp only [AreaRec.head, List.find?_eq_none, Bool.not_eq_true', Bool.not_eq_false, Entry.isIssued_iff]

/-- Another area holds an older entry for the line (R57, R64). -/
theorem State.olderElsewhere_iff (s : State) (a : AreaId) (line : Line) (place : Nat) :
    (allAreas.any fun b => b != a && (s.area b).holdsLineBefore line place) = true ↔
      ∃ b, b ≠ a ∧ ∃ e ∈ (s.area b).queue, e.line = line ∧ e.place < place := by
  simp [AreaRec.holdsLineBefore_iff]

theorem State.withinCaps_iff (s : State) (a : AreaId) :
    s.withinCaps a = true ↔ ((s.area a).state = .joined ∨ (s.area a).state = .detaching) ∧ (s.area a).issuedCount < 4 ∧
      s.drainTagCount < 6 := by
  change _ ↔ _ ∧ _ < Config.issuedLimit ∧ _ < Config.drainTagLimit
  simp only [State.withinCaps, Bool.and_eq_true, Bool.or_eq_true, beq_iff_eq, decide_eq_true_eq, and_assoc]

theorem State.lineBusy_eq_false_iff (s : State) (line : Line) :
    s.lineBusy line = false ↔ ∀ t, ∀ tr ∈ (s.tag t).transaction, tr.request.line ≠ line := by
  rw [bool_eq_false_iff (s.lineBusy_iff line)]
  push Not
  rfl

theorem State.lineOrder_iff (s : State) (a : AreaId) (h : Entry) :
    s.lineOrder a h = true ↔ (∀ t, ∀ tr ∈ (s.tag t).transaction, tr.request.line ≠ h.line) ∧
      (∀ b, b ≠ a → ∀ e ∈ (s.area b).queue, e.line = h.line → h.place ≤ e.place) ∧
      (∀ m, ∀ r ∈ (s.context m).through, r.line = h.line → h.place < r.mark) := by
  rw [State.lineOrder, Bool.and_eq_true, Bool.and_eq_true, Bool.not_eq_true', Bool.not_eq_true', Bool.not_eq_true',
    State.lineBusy_eq_false_iff, bool_eq_false_iff (s.olderElsewhere_iff a h.line h.place),
    bool_eq_false_iff (s.throughBefore_iff h.line h.place), and_assoc]
  push Not
  rfl

theorem State.strictClear_iff (s : State) (a : AreaId) (h : Entry) :
    s.strictClear a h = true ↔ (h.strict = true → ∀ e ∈ (s.area a).queue, h.place ≤ e.place) := by
  rw [State.strictClear, Bool.or_eq_true, Bool.not_eq_true', Bool.not_eq_true', bool_eq_false_iff ((s.area a).holdsBefore_iff h.place)]
  push Not
  rw [← Bool.not_eq_true, ← imp_iff_not_or]

theorem State.lingered_iff (s : State) (a : AreaId) (h : Entry) :
    s.lingered a h = true ↔ h.state ≠ .held ∨ (s.area a).linger = 0 ∨ h.lingerStart + (s.area a).linger ≤ s.now ∨
      ((s.area a).highWater ≠ 0 ∧ (s.area a).highWater ≤ (s.area a).occupancy) ∨ s.urgent a = true := by
  rw [State.lingered, Bool.or_eq_true, Bool.or_eq_true, Bool.or_eq_true, Bool.or_eq_true, Bool.not_eq_true',
    bool_eq_false_iff h.isHeld_iff, Bool.and_eq_true, decide_eq_true_eq, decide_eq_true_eq, decide_eq_true_eq, decide_eq_true_eq]
  simp only [or_assoc, ne_eq]

/-- The head of an area is offered exactly when it passes R56, R57, R58 and R59. -/
theorem State.offered_iff (s : State) (a : AreaId) :
    s.offered a = true ↔ ∃ h, (s.area a).head = some h ∧ s.withinCaps a = true ∧ s.lineOrder a h = true ∧
      s.strictClear a h = true ∧ s.lingered a h = true := by
  unfold State.offered
  cases (s.area a).head <;> simp [and_assoc]

/-- Settles O19: the head is the first entry that is not ISSUED, and each factor of its offer is one of the rules. -/
theorem offeredHeads : Obligations.OfferedHeads := by
  intro s a
  refine ⟨(s.area a).head_eq_some_iff, (s.area a).head_eq_none_iff, ?_⟩
  rw [State.offered_iff]
  refine exists_congr fun h => and_congr_right fun _ => ?_
  rw [State.withinCaps_iff, State.lineOrder_iff, State.strictClear_iff, State.lingered_iff]
  simp only [and_assoc]

/-! ## Urgency -/

theorem State.syncWaits_iff (s : State) (a : AreaId) :
    s.syncWaits a = true ↔ ∃ m mark, (s.area a).master = some m ∧ s.context m = .syncWait mark := by
  unfold State.syncWaits
  cases hm : (s.area a).master with
  | none => simp
  | some m => cases hc : s.context m <;> simp [hc]

theorem State.writeWaits_iff (s : State) (a : AreaId) :
    s.writeWaits a = true ↔ ∃ m, (s.area a).master = some m ∧ ((s.area a).state = .joined ∨ (s.area a).state = .halted) ∧
      ((∃ w, s.context m = .postingWait w) ∨ ∃ place, s.context m = .strictWait place) := by
  unfold State.writeWaits
  cases hm : (s.area a).master with
  | none => simp
  | some m => cases hc : s.context m <;> simp [hc]

theorem AreaRec.holdsUpRead_iff (r : AreaRec) (c : Context) :
    r.holdsUpRead c = true ↔ ∃ q, c = .readWait q .inHold ∧ ∃ e ∈ r.queue, e.line = q.line := by
  unfold AreaRec.holdsUpRead
  split <;> simp [AreaRec.holdsLine_iff]

theorem AreaRec.holdsUpThrough_iff (r : AreaRec) (c : Context) :
    r.holdsUpThrough c = true ↔ ∃ w, c = .throughWait w .inHold ∧ ∃ e ∈ r.queue, e.line = w.line ∧ e.place < w.mark := by
  unfold AreaRec.holdsUpThrough
  split <;> simp [AreaRec.holdsLineBefore_iff]

theorem State.waitsOn_iff (s : State) (a : AreaId) (p : HoldPlace) :
    s.waitsOn a p = true ↔ p.released = false ∧
      ((∃ r, s.context p.master = .readWait r .inHold ∧ ∃ e ∈ (s.area a).queue, e.line = r.line) ∨
        ∃ w, s.context p.master = .throughWait w .inHold ∧ ∃ e ∈ (s.area a).queue, e.line = w.line ∧ e.place < w.mark) := by
  rw [State.waitsOn, Bool.and_eq_true, Bool.or_eq_true, Bool.not_eq_true', AreaRec.holdsUpRead_iff, AreaRec.holdsUpThrough_iff]

theorem State.holdsUpHead_iff (s : State) (a : AreaId) :
    s.holdsUpHead a = true ↔
      ∃ b h, b ≠ a ∧ (s.area b).head = some h ∧ ∃ e ∈ (s.area a).queue, e.line = h.line ∧ e.place < h.place := by
  simp only [State.holdsUpHead, List.any_eq_true, mem_allAreas, true_and, Bool.and_eq_true, bne_iff_ne]
  refine exists_congr fun b => ?_
  cases (s.area b).head <;> simp [AreaRec.holdsLineBefore_iff]

/-- Settles O20: each term of the model's urgency is one cause of R62, but for the Hold List's, which stands for two. -/
theorem urgentAreas : Obligations.UrgentAreas := by
  intro s a
  have hheld : s.holdList.any (s.waitsOn a) = true ↔
      (∃ p ∈ s.holdList, p.released = false ∧ ∃ r, s.context p.master = .readWait r .inHold ∧ ∃ e ∈ (s.area a).queue, e.line = r.line) ∨
      (∃ p ∈ s.holdList, p.released = false ∧ ∃ w, s.context p.master = .throughWait w .inHold ∧
        ∃ e ∈ (s.area a).queue, e.line = w.line ∧ e.place < w.mark) := by
    simp only [List.any_eq_true, State.waitsOn_iff, and_or_left, exists_or]
  have hshut : (s.mode == .shutdown && !(s.area a).queue.isEmpty) = true ↔ s.mode = .shutdown ∧ (s.area a).queue ≠ [] := by simp
  rw [State.urgent]
  simp only [Bool.or_eq_true, State.syncWaits_iff, State.writeWaits_iff, hheld, Option.isSome_iff_ne_none, hshut,
    State.holdsUpHead_iff, or_assoc]

/-! ## Blocked-by -/

/-- The earliest of the other areas' entries for the line posted before the place, with its area (R64). -/
def State.earliestElsewhere (s : State) (a : AreaId) (line : Line) (place : Nat) : Option (AreaId × Entry) :=
  (allAreas.filter fun b => b != a).foldl (fun best b => earlier best (s.olderIn b line place)) none

theorem State.blockedBy_eq (s : State) (a : AreaId) :
    s.blockedBy a = (s.area a).head.bind fun h => (s.earliestElsewhere a h.line h.place).map Prod.fst := by
  unfold State.blockedBy
  cases (s.area a).head <;> rfl

theorem State.earliestElsewhere_mem {s : State} (hq : s.QueuesOrdered) {a : AreaId} {line : Line} {place : Nat} {p : AreaId × Entry}
    (h : s.earliestElsewhere a line place = some p) :
    p.1 ≠ a ∧ p.2 ∈ (s.area p.1).queue ∧ p.2.line = line ∧ p.2.place < place := by
  obtain hnone | ⟨b, hb, hp⟩ := (fold_earlier (fun b => s.olderIn b line place) _ none).right p h
  · cases hnone
  · obtain ⟨rfl, hmem, hline, hplace⟩ := (s.olderIn_spec hq b line place).left p hp
    exact ⟨by simpa using hb, hmem, hline, hplace⟩

theorem State.earliestElsewhere_le {s : State} (hq : s.QueuesOrdered) {a b : AreaId} {line : Line} {place : Nat} {x : Entry} (hb : b ≠ a)
    (hx : x ∈ (s.area b).queue) (hline : x.line = line) (hplace : x.place < place) :
    ∃ p, s.earliestElsewhere a line place = some p ∧ p.2.place ≤ x.place := by
  obtain ⟨p, hp, hle⟩ := (s.olderIn_spec hq b line place).right x hx hline hplace
  obtain ⟨q, hfold, hqp⟩ := (fold_earlier (fun b => s.olderIn b line place) (allAreas.filter fun b => b != a) none).left p
    (.inr ⟨b, by simpa using hb, hp⟩)
  exact ⟨q, hfold, hqp.trans hle⟩

/-- Settles O21: the fold over the other areas keeps the earliest of their oldest entries for the head's line. -/
theorem blockedByNamesFirst : Obligations.BlockedByNamesFirst := by
  intro s a hq
  rw [State.blockedBy_eq]
  refine ⟨fun b hb => ?named, fun hnone h hh b hb e he hline => ?absent⟩
  case named =>
    obtain ⟨h, hh, p, hp, rfl⟩ : ∃ h, (s.area a).head = some h ∧ ∃ p, s.earliestElsewhere a h.line h.place = some p ∧ p.1 = b := by
      simpa [Option.bind_eq_some_iff] using hb
    obtain ⟨hne, hmem, hline, hplace⟩ := State.earliestElsewhere_mem hq hp
    refine ⟨hne, h, hh, p.2, hmem, hline, hplace, fun c hc x hx hxline => ?_⟩
    by_contra! hlt
    obtain ⟨q, hq', hle⟩ := State.earliestElsewhere_le hq hc hx hxline (hlt.trans hplace)
    obtain rfl : p = q := Option.some.inj (hp.symm.trans hq')
    omega
  case absent =>
    by_contra! hlt
    obtain ⟨p, hp, -⟩ := State.earliestElsewhere_le hq hb he hline hlt
    simp [hh, hp] at hnone

end Sys2Proof.Machine
end

section
/-! The arbiter: which claimant it chooses, what one grant does, and the frame of all its grants (R49, R65 to R69, R76). -/

namespace Sys2Proof.Machine

/-! ## The choice -/

theorem Context.heldLine_eq_some_iff (c : Context) (line : Line) :
    c.heldLine = some line ↔ (∃ r, c = .readWait r .inHold ∧ r.line = line) ∨ ∃ w, c = .throughWait w .inHold ∧ w.line = line := by
  unfold Context.heldLine
  split <;> simp

theorem State.guarded_iff (s : State) :
    allTags.any (fun t => (s.tag t).busyWithEntry) = false ↔ ∀ t, (s.tag t).busyWithEntry = false := by
  simp

theorem State.guardClaim_eq_some_iff (s : State) (c : Claimant) :
    s.guardClaim = some c ↔ (∀ t, (s.tag t).busyWithEntry = false) ∧ s.urgentClaim = some c := by
  rw [← State.guarded_iff, State.guardClaim, State.urgentClaim]
  split <;> simp_all

theorem State.urgentClaim_eq_none_iff (s : State) :
    s.urgentClaim = none ↔ ∀ a, ¬ (s.urgent a = true ∧ s.offered a = true) := by
  rw [State.urgentClaim, (s.firstArea_spec _).left]
  simp

theorem State.guardClaim_eq_none_iff (s : State) :
    s.guardClaim = none ↔ s.urgentClaim = none ∨ ¬ ∀ t, (s.tag t).busyWithEntry = false := by
  rw [← State.guarded_iff, State.guardClaim, State.urgentClaim]
  split <;> simp_all

theorem State.masterClaim_eq_none_iff (s : State) : s.masterClaim = none ↔ ∀ p ∈ s.holdList, s.grantable p = false := by
  simp [State.masterClaim]

theorem State.masterClaim_eq_some_iff (s : State) (c : Claimant) :
    s.masterClaim = some c ↔ ∃ before p after, s.holdList = before ++ p :: after ∧ c = .master p.master ∧ s.grantable p = true ∧
      ∀ q ∈ before, s.grantable q = false := by
  simp only [State.masterClaim, Option.map_eq_some_iff, List.find?_eq_some_iff_append, Bool.not_eq_true']
  constructor
  · rintro ⟨p, ⟨hp, before, after, hlist, hbefore⟩, rfl⟩
    exact ⟨before, p, after, hlist, rfl, hp, hbefore⟩
  · rintro ⟨before, p, after, hlist, rfl, hp, hbefore⟩
    exact ⟨p, ⟨hp, before, after, hlist, hbefore⟩, rfl⟩

/-- The order of R67 between two areas: the number, or the distance from the pointer on. -/
def State.comesFirst (s : State) (a b : AreaId) : Prop :=
  match s.arbitration with
  | .fixed => a ≤ b
  | .roundRobin => a - s.pointer ≤ b - s.pointer

theorem State.urgentClaim_spec {s : State} {c : Claimant} (h : s.urgentClaim = some c) :
    ∃ a, c = .area a ∧ s.urgent a = true ∧ s.offered a = true ∧
      ∀ b, s.urgent b = true → s.offered b = true → s.comesFirst a b := by
  obtain ⟨a, rfl, hcls, hfirst⟩ := (s.firstArea_spec _).right c h
  obtain ⟨hurgent, hoffered⟩ := Bool.and_eq_true_iff.mp hcls
  exact ⟨a, rfl, hurgent, hoffered, fun b hb ho => hfirst b (by simp [hb, ho])⟩

theorem State.otherClaim_spec {s : State} {c : Claimant} (h : s.otherClaim = some c) :
    ∃ a, c = .area a ∧ s.urgent a = false ∧ s.offered a = true ∧
      ∀ b, s.urgent b = false → s.offered b = true → s.comesFirst a b := by
  obtain ⟨a, rfl, hcls, hfirst⟩ := (s.firstArea_spec _).right c h
  obtain ⟨hurgent, hoffered⟩ := Bool.and_eq_true_iff.mp hcls
  exact ⟨a, rfl, by simpa using hurgent, hoffered, fun b hb ho => hfirst b (by simp [hb, ho])⟩

/-- The first class that has a claimant supplies the grant (R66). -/
theorem State.chosen_cases {s : State} {c : Claimant} (h : s.chosen = some c) :
    (s.urgentClaim = some c ∧ ((∀ t, (s.tag t).busyWithEntry = false) ∨ s.masterClaim = none)) ∨
    (s.masterClaim = some c ∧ s.guardClaim = none) ∨
    (s.otherClaim = some c ∧ s.masterClaim = none ∧ s.urgentClaim = none) := by
  simp only [State.chosen, Option.or_eq_some_iff, State.guardClaim_eq_some_iff] at h
  tauto

theorem State.chosen_eq_none_iff (s : State) :
    s.chosen = none ↔ (∀ p ∈ s.holdList, s.grantable p = false) ∧ ∀ a, s.offered a = false := by
  have hother : s.otherClaim = none ↔ ∀ a, ¬ (s.urgent a = false ∧ s.offered a = true) := by
    rw [State.otherClaim, (s.firstArea_spec _).left]
    simp
  have hoffer (a : AreaId) : s.offered a = false ↔
      ¬ (s.urgent a = true ∧ s.offered a = true) ∧ ¬ (s.urgent a = false ∧ s.offered a = true) := by
    cases s.urgent a <;> simp
  simp only [State.chosen, Option.or_eq_none_iff, State.guardClaim_eq_none_iff, State.masterClaim_eq_none_iff, hother, hoffer,
    forall_and, ← State.urgentClaim_eq_none_iff]
  tauto

/-- Settles O22: the classes of R66 in their order, and within a class of areas the order of R67. -/
theorem arbiterChoice : Obligations.ArbiterChoice := by
  intro s
  refine ⟨fun p => ?places, fun m hm => ?master, fun a ha => ?area, s.chosen_eq_none_iff⟩
  case places =>
    rw [State.grantable_iff]
    simp only [Context.heldLine_eq_some_iff, State.lineBusy_eq_false_iff]
  case master =>
    obtain ⟨hclaim, -⟩ | ⟨hclaim, hguard⟩ | ⟨hclaim, -, -⟩ := State.chosen_cases hm
    · obtain ⟨a, ha, -⟩ := State.urgentClaim_spec hclaim
      cases ha
    · obtain ⟨before, p, after, hlist, hp, hgrant, hbefore⟩ := (s.masterClaim_eq_some_iff _).mp hclaim
      rw [State.guardClaim_eq_none_iff, State.urgentClaim_eq_none_iff] at hguard
      exact ⟨⟨before, p, after, hlist, (Claimant.master.inj hp).symm, hgrant, hbefore⟩, hguard⟩
    · obtain ⟨a, ha, -⟩ := State.otherClaim_spec hclaim
      cases ha
  case area =>
    simp only [← State.masterClaim_eq_none_iff, ← State.urgentClaim_eq_none_iff]
    obtain ⟨hclaim, hwhy⟩ | ⟨hclaim, -⟩ | ⟨hclaim, hmaster, hnone⟩ := State.chosen_cases ha
    · obtain ⟨b, hb, hurgent, hoffered, hfirst⟩ := State.urgentClaim_spec hclaim
      obtain rfl := Claimant.area.inj hb
      rw [hurgent]
      exact ⟨hoffered, hwhy, fun b ho hu => hfirst b hu ho⟩
    · obtain ⟨_, _, _, _, hp, -⟩ := (s.masterClaim_eq_some_iff _).mp hclaim
      cases hp
    · obtain ⟨b, hb, hurgent, hoffered, hfirst⟩ := State.otherClaim_spec hclaim
      obtain rfl := Claimant.area.inj hb
      rw [hurgent]
      exact ⟨hoffered, ⟨hmaster, hnone⟩, fun b ho hu => hfirst b hu ho⟩

/-! ## One issue -/

/-- An entry as its issue on a tag leaves it (R69). -/
def Entry.issuedOn (t : TagId) (e : Entry) : Entry := { e with state := .issued t, attempts := e.attempts + 1 }

/-- A context as the issue of its request on a tag leaves it (R37, R51). -/
def Context.issuedOn (t : TagId) : Context → Context
  | .throughWait w _ => .throughWait w (.issued t)
  | .readWait r _ => .readWait r (.issued t)
  | .idle => .idle
  | .postingWait w => .postingWait w
  | .strictWait place => .strictWait place
  | .syncWait mark => .syncWait mark

theorem Context.issuedOn_spec {c : Context} (h : c.heldLine ≠ none) (t : TagId) :
    (c.issuedOn t).tag = some t ∧ (c.issuedOn t).heldLine = none ∧ c.tag = none ∧ (c.issuedOn t).through = c.through ∧
      c ≠ .idle ∧ c.issuedOn t ≠ .idle := by
  cases c with
  | throughWait w st => cases st <;> simp_all [Context.heldLine, Context.tag, Context.issuedOn, Context.through]
  | readWait r st => cases st <;> simp_all [Context.heldLine, Context.tag, Context.issuedOn, Context.through]
  | _ => exact absurd rfl h

theorem State.issueHead_eq {s : State} {a : AreaId} {h : Entry} (hh : (s.area a).head = some h) (t : TagId) :
    s.issueHead a t =
      ((s.occupy t (.entry a h.place) h.request).updateEntry a h.place (Entry.issuedOn t)).movePointer (nextArea a) := by
  unfold State.issueHead
  rw [hh]
  rfl

theorem State.issueMaster_of_read {s : State} {m : MasterId} {r : ReadReq} (hc : s.context m = .readWait r .inHold) (t : TagId) :
    s.issueMaster m t =
      ((s.occupy t (.master m) { kind := .read, line := r.line, mask := r.mask, data := zeroData }).leaveHold m).setContext m
        (.readWait r (.issued t)) := by
  unfold State.issueMaster
  rw [hc]

theorem State.issueMaster_of_through {s : State} {m : MasterId} {w : ThroughReq} (hc : s.context m = .throughWait w .inHold)
    (t : TagId) :
    s.issueMaster m t =
      ((s.occupy t (.master m) { kind := .write, line := w.line, mask := w.mask, data := keepMarked w.mask w.data }).leaveHold m).setContext
        m (.throughWait w (.issued t)) := by
  unfold State.issueMaster
  rw [hc]

/-- What the issue of the chosen claimant does: an offered head, or a waiting request of the Hold List, takes the tag (R65, R69). -/
theorem State.issue_cases {s : State} {c : Claimant} (hc : s.chosen = some c) (t : TagId) :
    (∃ a h, c = .area a ∧ (s.area a).head = some h ∧ s.offered a = true ∧
      s.issue c t = ((s.occupy t (.entry a h.place) h.request).updateEntry a h.place (Entry.issuedOn t)).movePointer (nextArea a)) ∨
    ∃ m request, c = .master m ∧ (s.context m).heldLine = some request.line ∧ s.lineBusy request.line = false ∧
      s.issue c t = ((s.occupy t (.master m) request).leaveHold m).setContext m ((s.context m).issuedOn t) := by
  obtain ⟨a, rfl, hoffered⟩ | ⟨p, -, rfl, hgrant⟩ := State.chosen_offered hc
  · obtain ⟨h, hh, -⟩ := (s.offered_iff a).mp hoffered
    exact .inl ⟨a, h, rfl, hh, hoffered, State.issueHead_eq hh t⟩
  · obtain ⟨-, line, hheld, hbusy⟩ := (s.grantable_iff p).mp hgrant
    obtain ⟨r, hr, rfl⟩ | ⟨w, hw, rfl⟩ := (Context.heldLine_eq_some_iff _ _).mp hheld
    · exact .inr ⟨p.master, _, rfl, hheld, hbusy, by rw [hr]; exact State.issueMaster_of_read hr t⟩
    · exact .inr ⟨p.master, _, rfl, hheld, hbusy, by rw [hw]; exact State.issueMaster_of_through hw t⟩

/-! ## ARBITER_GRANT -/

theorem State.unlessReset_of_running {s : State} (h : s.resetHeld = false) (k : State → State) : s.unlessReset k = k s := by
  simp [State.unlessReset, h]

theorem State.unlessReset_of_held {s : State} (h : s.resetHeld = true) (k : State → State) : s.unlessReset k = s := by
  simp [State.unlessReset, h]

theorem exec_arbiterGrant (s : State) : exec .arbiterGrant s = .next (s.unlessReset fun s => s.grantOnce.getD s) := rfl

theorem State.grantOnce_eq_none {s : State} (h : s.canAccept = false ∨ s.lowestFree = none ∨ s.chosen = none) : s.grantOnce = none := by
  unfold State.grantOnce
  split
  · split
    · simp_all
    · rfl
  · rfl

theorem exec_arbiterGrant_of_chosen {s : State} {t : TagId} {c : Claimant} (hready : s.memoryReady ≠ .withdrawn)
    (hreset : s.resetHeld = false) (hfree : s.lowestFree = some t) (hc : s.chosen = some c) :
    exec .arbiterGrant s = .next (s.issue c t) := by
  rw [exec_arbiterGrant, State.unlessReset_of_running hreset,
    State.grantOnce_of (s.canAccept_iff.mpr ⟨hready, hreset⟩) hfree hc, Option.getD_some]

theorem exec_arbiterGrant_of_none {s : State} (h : s.canAccept = false ∨ s.lowestFree = none ∨ s.chosen = none) :
    exec .arbiterGrant s = .next s := by
  rw [exec_arbiterGrant]
  cases hreset : s.resetHeld
  · rw [State.unlessReset_of_running hreset, State.grantOnce_eq_none h, Option.getD_none]
  · rw [State.unlessReset_of_held hreset]

/-- Settles O23: the grant is the issue of the chosen claimant, which is an area's head or a waiting request. -/
theorem arbiterGrantIssues : Obligations.ArbiterGrantIssues := by
  intro s t rest
  have hrest : afterAcceptance s.memoryReady = rest := by
    unfold rest
    rcases s.memoryReady with _ | _ | _ | n <;> rfl
  clear_value rest
  subst hrest
  refine ⟨fun hready hreset htag hlow => ?grant, fun hnone => exec_arbiterGrant_of_none ?nothing⟩
  case grant =>
    have hfree : s.lowestFree = some t := State.lowestFree_eq_some.mpr ⟨htag, hlow⟩
    simp only [← nextArea_eq]
    refine ⟨fun a h hc hh => ?_, fun m w hc hw => ?_, fun m r hc hr => ?_⟩ <;>
      rw [exec_arbiterGrant_of_chosen hready hreset hfree hc, State.issue]
    · rw [State.issueHead_eq hh]
      rfl
    · rw [State.issueMaster_of_through hw]
      rfl
    · rw [State.issueMaster_of_read hr]
      rfl
  case nothing =>
    obtain hready | hreset | hc | hfree := hnone
    · exact .inl ((bool_eq_false_iff s.canAccept_iff).mpr fun h => h.left hready)
    · exact .inl ((bool_eq_false_iff s.canAccept_iff).mpr fun h => by simp [hreset] at h)
    · exact .inr (.inr hc)
    · exact .inr (.inl (State.lowestFree_eq_none.mpr hfree))

end Sys2Proof.Machine
end

section
/-! The frame of the arbiter's grants: what one grant changes of a state whose queues stand in order, and that a chain of grants changes
nothing else (R65, R69, R76). -/

namespace Sys2Proof.Machine

/-! ## Queues in posting order -/

theorem State.queuesOrdered_iff (s : State) :
    s.QueuesOrdered ↔ ∀ a, ((s.area a).queue.map Entry.place).Pairwise (· < ·) ∧
      ∀ p ∈ (s.area a).queue.map Entry.place, p < s.nextPlace := by
  simp [List.pairwise_map]

/-- Entries that leave a queue, or change without their places, keep the posting order. -/
theorem State.QueuesOrdered.of_places {s t : State} (h : s.QueuesOrdered) (hnext : s.nextPlace ≤ t.nextPlace)
    (hq : ∀ a, ((t.area a).queue.map Entry.place).Sublist ((s.area a).queue.map Entry.place)) : t.QueuesOrdered := by
  rw [State.queuesOrdered_iff] at h ⊢
  intro a
  obtain ⟨hsorted, hbound⟩ := h a
  exact ⟨hsorted.sublist (hq a), fun p hp => (hbound p ((hq a).subset hp)).trans_le hnext⟩

theorem State.QueuesOrdered.issue {s : State} (h : s.QueuesOrdered) (c : Claimant) (t : TagId) : (s.issue c t).QueuesOrdered :=
  h.of_places (by simp) fun a => by rw [s.issue_places c t a]

/-- In an ordered queue the head's place names the head alone. -/
theorem State.QueuesOrdered.eq_head {s : State} (hq : s.QueuesOrdered) {a : AreaId} {h e : Entry} (hh : (s.area a).head = some h)
    (he : e ∈ (s.area a).queue) (hp : e.place = h.place) : e = h :=
  hq.eq_of_place he (AreaRec.head_mem hh) hp

/-! ## What one grant or several change -/

/-- The tag was FREE and is BUSY with the user, on the line. -/
def TagGranted (s u : State) (x : TagId) (user : TagUser) (line : Line) : Prop :=
  s.tag x = .free ∧ ∃ tr, u.tag x = .busy tr ∧ tr.user = user ∧ tr.request.line = line

/-- An entry is as before, or was not ISSUED and is ISSUED on a tag that was FREE and is BUSY with it. -/
def EntryGranted (s u : State) (a : AreaId) (e e' : Entry) : Prop :=
  e' = e ∨ (∀ x, e.state ≠ .issued x) ∧ ∃ x, e' = e.issuedOn x ∧ TagGranted s u x (.entry a e.place) e.line

/-- A context is as before, or its request waited in the Hold List and is issued on a tag that was FREE and is BUSY with its master. -/
def ContextGranted (s u : State) (m : MasterId) : Prop :=
  u.context m = s.context m ∨
    ∃ x line, TagGranted s u x (.master m) line ∧ (s.context m).heldLine = some line ∧ u.context m = (s.context m).issuedOn x

/-- A tag is as before, or was FREE and is BUSY, its timer started now, with a user that waits on it. -/
def TagKept (s u : State) (x : TagId) : Prop :=
  u.tag x = s.tag x ∨ s.tag x = .free ∧
    ∃ tr, u.tag x = .busy tr ∧ tr.started = s.now ∧ tr.timeout = s.timeout ∧ u.userWaits x tr.user = true

/-- The state u comes from s by grants: everything that grants change of it, and how. -/
structure Granted (s u : State) : Prop where
  rest : u = { s with
    areas := u.areas, masters := u.masters, tags := u.tags, holdList := u.holdList, pointer := u.pointer, memoryReady := u.memoryReady }
  area : ∀ a, u.area a = { s.area a with queue := (u.area a).queue }
  entries : ∀ a, List.Forall₂ (EntryGranted s u a) (s.area a).queue (u.area a).queue
  master : ∀ m, u.master m = { s.master m with context := u.context m }
  contexts : ∀ m, ContextGranted s u m
  tags : ∀ x, TagKept s u x
  hold : u.holdList.Sublist s.holdList
  places : ∀ p ∈ s.holdList, p ∈ u.holdList ∨ u.context p.master ≠ s.context p.master
  left : ∀ m, u.context m ≠ s.context m → ∀ p ∈ u.holdList, p.master ≠ m

namespace Granted

theorem refl (s : State) : Granted s s where
  rest := rfl
  area _ := rfl
  entries _ := List.forall₂_same.mpr fun _ _ => .inl rfl
  master _ := rfl
  contexts _ := .inl rfl
  tags _ := .inl rfl
  hold := List.Sublist.refl _
  places _ hp := .inl hp
  left _ hne := absurd rfl hne

variable {s u v : State}

/-- A tag that is not FREE stays as it is. -/
theorem tag_of_not_free (h : Granted s u) {x : TagId} (hx : s.tag x ≠ .free) : u.tag x = s.tag x :=
  (h.tags x).resolve_right fun hfree => hx hfree.left

theorem free_of_free (h : Granted s u) {x : TagId} (hx : u.tag x = .free) : s.tag x = .free := by
  by_contra hs
  exact hs ((h.tag_of_not_free hs).symm.trans hx)

/-- A user that waits on a tag goes on waiting on it. -/
theorem userWaits (h : Granted s u) {x : TagId} {user : TagUser} (hw : s.userWaits x user = true) : u.userWaits x user = true := by
  cases user with
  | entry a place =>
    simp only [State.userWaits, List.any_eq_true, Bool.and_eq_true, beq_iff_eq] at hw ⊢
    obtain ⟨e, he, hplace, hstate⟩ := hw
    obtain ⟨i, hi, rfl⟩ := List.mem_iff_getElem.mp he
    obtain ⟨hlen, hall⟩ := List.forall₂_iff_get.mp (h.entries a)
    obtain heq | ⟨hnot, -⟩ := hall i hi (hlen ▸ hi)
    · exact ⟨(u.area a).queue.get ⟨i, hlen ▸ hi⟩, List.get_mem _ _, by rw [heq]; exact ⟨hplace, hstate⟩⟩
    · exact absurd hstate (hnot x)
  | master m =>
    simp only [State.userWaits, beq_iff_eq] at hw ⊢
    obtain heq | ⟨y, line, -, hheld, -⟩ := h.contexts m
    · rw [heq, hw]
    · obtain ⟨-, -, htag, -⟩ := Context.issuedOn_spec (Option.ne_none_iff_exists'.mpr ⟨_, hheld⟩) y
      rw [htag] at hw
      cases hw

theorem tagGranted_left (k : Granted u v) {x : TagId} {user : TagUser} {line : Line} (hx : TagGranted s u x user line) :
    TagGranted s v x user line := by
  obtain ⟨hfree, tr, htr, huser⟩ := hx
  exact ⟨hfree, tr, by rw [k.tag_of_not_free (by simp [htr]), htr], huser⟩

theorem tagGranted_right (h : Granted s u) {x : TagId} {user : TagUser} {line : Line} (hx : TagGranted u v x user line) :
    TagGranted s v x user line :=
  ⟨h.free_of_free hx.left, hx.right⟩

theorem entryGranted (h : Granted s u) (k : Granted u v) {a : AreaId} {e e' e'' : Entry} (he : EntryGranted s u a e e')
    (he' : EntryGranted u v a e' e'') : EntryGranted s v a e e'' := by
  obtain rfl | ⟨hnot, x, rfl, hx⟩ := he
  · exact he'.imp id fun ⟨hnot, x, hx, hg⟩ => ⟨hnot, x, hx, h.tagGranted_right hg⟩
  · obtain rfl | ⟨hnot', -⟩ := he'
    · exact .inr ⟨hnot, x, rfl, k.tagGranted_left hx⟩
    · exact absurd rfl (hnot' x)

theorem contextGranted (h : Granted s u) (k : Granted u v) (m : MasterId) : ContextGranted s v m := by
  obtain hsu | ⟨x, line, hx, hheld, hsu⟩ := h.contexts m
  · unfold ContextGranted
    rw [← hsu]
    exact (k.contexts m).imp id fun ⟨x, line, hx, hrest⟩ => ⟨x, line, h.tagGranted_right hx, hrest⟩
  · obtain huv | ⟨y, line', -, hheld', -⟩ := k.contexts m
    · exact .inr ⟨x, line, k.tagGranted_left hx, hheld, huv.trans hsu⟩
    · obtain ⟨-, hnone, -⟩ := Context.issuedOn_spec (Option.ne_none_iff_exists'.mpr ⟨_, hheld⟩) x
      rw [hsu, hnone] at hheld'
      cases hheld'

/-- A context that changes leaves the Hold List. -/
theorem heldLine_of_ne (h : Granted s u) {m : MasterId} (hne : u.context m ≠ s.context m) :
    (s.context m).heldLine ≠ none ∧ (u.context m).heldLine = none := by
  obtain heq | ⟨x, line, -, hheld, heq⟩ := h.contexts m
  · exact absurd heq hne
  · have hheld' : (s.context m).heldLine ≠ none := by simp [hheld]
    obtain ⟨-, hnone, -⟩ := Context.issuedOn_spec hheld' x
    exact ⟨hheld', heq ▸ hnone⟩

theorem tagKept (h : Granted s u) (k : Granted u v) (hnow : u.now = s.now) (htime : u.timeout = s.timeout) (x : TagId) :
    TagKept s v x := by
  obtain hsu | ⟨hfree, tr, htr, hstart, hout, hw⟩ := h.tags x
  · unfold TagKept
    rw [← hsu, ← hnow, ← htime]
    exact k.tags x
  · exact .inr ⟨hfree, tr, by rw [k.tag_of_not_free (by simp [htr]), htr], hstart, hout, k.userWaits hw⟩

theorem trans (h : Granted s u) (k : Granted u v) : Granted s v where
  rest := by
    have hv := k.rest
    rw [h.rest] at hv
    exact hv
  area a := by
    rw [k.area a, h.area a]
  entries a := by
    refine List.forall₂_iff_get.mpr ?_
    obtain ⟨hlen, hall⟩ := List.forall₂_iff_get.mp (h.entries a)
    obtain ⟨hlen', hall'⟩ := List.forall₂_iff_get.mp (k.entries a)
    exact ⟨hlen.trans hlen', fun i hi hi' => h.entryGranted k (hall i hi (hlen ▸ hi)) (hall' i (hlen ▸ hi) hi')⟩
  master m := by
    rw [k.master m, h.master m]
  contexts m := h.contextGranted k m
  tags x := h.tagKept k (by rw [h.rest]) (by rw [h.rest]) x
  hold := k.hold.trans h.hold
  places p hp := by
    obtain hp' | hne := h.places p hp
    · refine (k.places p hp').imp id fun hne heq => ?_
      obtain ⟨hheld, -⟩ := k.heldLine_of_ne hne
      exact hheld (h.heldLine_of_ne fun hu => hne (heq.trans hu.symm)).right
    · refine .inr fun heq => ?_
      obtain ⟨-, hnone⟩ := h.heldLine_of_ne hne
      exact (k.heldLine_of_ne fun hv => hne (hv.symm.trans heq)).left hnone
  left m hne p hp := by
    by_cases hu : u.context m = s.context m
    · exact k.left m (hu ▸ hne) p hp
    · exact h.left m hu p (k.hold.subset hp)

/-- The issue of an area's head (R69). -/
theorem issueHead {s : State} (hq : s.QueuesOrdered) {a : AreaId} {h : Entry} (hh : (s.area a).head = some h) {t : TagId}
    (hfree : s.tag t = .free) :
    Granted s (((s.occupy t (.entry a h.place) h.request).updateEntry a h.place (Entry.issuedOn t)).movePointer (nextArea a)) := by
  obtain ⟨hnot, -⟩ := ((s.area a).head_eq_some_iff h).mp hh
  have hgranted : TagGranted s (((s.occupy t (.entry a h.place) h.request).updateEntry a h.place (Entry.issuedOn t)).movePointer
      (nextArea a)) t (.entry a h.place) h.line := ⟨hfree, by simp [Entry.request]⟩
  refine ⟨rfl, fun b => ?area, fun b => ?entries, fun m => rfl, fun m => .inl rfl, fun x => ?tags, List.Sublist.refl _,
    fun p hp => .inl hp, fun m hne => absurd rfl hne⟩
  case area =>
    by_cases hb : b = a
    · simp [hb]
    · simp [hb]
  case entries =>
    by_cases hb : b = a
    · subst hb
      simp only [State.movePointer_area, State.updateEntry_area, if_true, State.occupy_area, List.forall₂_map_right_iff]
      refine List.forall₂_same.mpr fun e he => ?_
      split
      · next hplace =>
        obtain rfl := hq.eq_head hh he (by simpa using hplace)
        exact .inr ⟨hnot, t, rfl, hgranted⟩
      · exact .inl rfl
    · simp only [State.movePointer_area, State.updateEntry_area, hb, if_false, State.occupy_area]
      exact List.forall₂_same.mpr fun e _ => .inl rfl
  case tags =>
    by_cases hx : x = t
    · subst hx
      refine .inr ⟨hfree, { user := .entry a h.place, request := h.request, started := s.now, timeout := s.timeout }, by simp, rfl, rfl, ?_⟩
      simp only [State.userWaits, State.movePointer_area, State.updateEntry_area, if_true, State.occupy_area, List.any_map,
        List.any_eq_true]
      exact ⟨h, AreaRec.head_mem hh, by simp [Entry.issuedOn]⟩
    · exact .inl (by simp [hx])

/-- The issue of a request of the Hold List (R37, R51). -/
theorem issueMaster {s : State} {m : MasterId} {request : MemRequest} {t : TagId} (hheld : (s.context m).heldLine = some request.line)
    (hfree : s.tag t = .free) :
    Granted s (((s.occupy t (.master m) request).leaveHold m).setContext m ((s.context m).issuedOn t)) := by
  obtain ⟨htag, hnone, -⟩ := Context.issuedOn_spec (Option.ne_none_iff_exists'.mpr ⟨_, hheld⟩) t
  refine ⟨rfl, fun b => rfl, fun b => List.forall₂_same.mpr fun _ _ => .inl rfl, fun n => ?master, fun n => ?contexts, fun x => ?tags,
    List.filter_sublist, fun p hp => ?places, fun n hne p hp => ?left⟩
  case master =>
    by_cases hn : n = m
    · simp [hn]
    · simp [hn, State.context]
  case contexts =>
    by_cases hn : n = m
    · subst hn
      exact .inr ⟨t, request.line, ⟨hfree, by simp⟩, hheld, by simp⟩
    · exact .inl (by simp [hn])
  case tags =>
    by_cases hx : x = t
    · subst hx
      exact .inr ⟨hfree, { user := .master m, request := request, started := s.now, timeout := s.timeout }, by simp, rfl, rfl,
        by simp [State.userWaits, htag]⟩
    · exact .inl (by simp [hx])
  case places =>
    by_cases hm : p.master = m
    · refine .inr fun heq => ?_
      simp only [hm, State.setContext_context, if_true] at heq
      rw [← heq, hnone] at hheld
      cases hheld
    · exact .inl (by simp [State.leaveHold, hp, hm])
  case left =>
    by_cases hn : n = m
    · subst hn
      simpa using (List.mem_filter.mp hp).right
    · exact absurd (by simp [hn]) hne

theorem issue {s : State} (hq : s.QueuesOrdered) {c : Claimant} {t : TagId} (hc : s.chosen = some c) (ht : s.lowestFree = some t) :
    Granted s (s.issue c t) := by
  obtain ⟨hfree, -⟩ := State.lowestFree_eq_some.mp ht
  obtain ⟨a, h, -, hh, -, heq⟩ | ⟨m, request, -, hheld, -, heq⟩ := State.issue_cases hc t <;> rw [heq]
  · exact issueHead hq hh hfree
  · exact issueMaster hheld hfree

end Granted

/-- All the grants of the arbiter together are a chain of issues. -/
theorem State.arbitrate_granted {s : State} (hq : s.QueuesOrdered) : Granted s s.arbitrate := by
  refine (State.arbitrate_induct (P := fun u => Granted s u ∧ u.QueuesOrdered) s ⟨Granted.refl s, hq⟩ ?_).left
  rintro u c t ⟨hsu, hu⟩ - ht hc
  exact ⟨hsu.trans (Granted.issue hu hc ht), hu.issue c t⟩

/-- A context that was issued is one of the two requests of the Hold List (R47). -/
theorem Context.issuedOn_cases {c : Context} (h : c.heldLine ≠ none) (t : TagId) :
    (∃ w, c = .throughWait w .inHold ∧ c.issuedOn t = .throughWait w (.issued t)) ∨
      ∃ r, c = .readWait r .inHold ∧ c.issuedOn t = .readWait r (.issued t) := by
  obtain ⟨line, hline⟩ := Option.ne_none_iff_exists'.mp h
  obtain ⟨r, rfl, -⟩ | ⟨w, rfl, -⟩ := (c.heldLine_eq_some_iff line).mp hline
  · exact .inr ⟨r, rfl, rfl⟩
  · exact .inl ⟨w, rfl, rfl⟩

/-- Settles O24: every clause is a field of Granted, which a chain of grants satisfies. -/
theorem arbiterFrame : Obligations.ArbiterFrame := by
  intro s hq
  have h : Granted s s.arbitrate := State.arbitrate_granted hq
  have forget {x : TagId} {user : TagUser} {line : Line} (hx : TagGranted s s.arbitrate x user line) :
      s.tag x = .free ∧ ∃ tr, s.arbitrate.tag x = .busy tr ∧ tr.user = user :=
    ⟨hx.left, hx.right.imp fun _ ⟨htr, huser, _⟩ => ⟨htr, huser⟩⟩
  refine ⟨h.rest, fun a => ⟨h.area a, (h.entries a).imp fun e e' he => ?entry⟩, fun m => ⟨h.master m, ?context⟩, h.tags, h.hold,
    h.places⟩
  case entry => exact he.imp id fun ⟨hnot, x, hx, hgranted⟩ => ⟨hnot, x, hx, forget hgranted⟩
  case context =>
    exact (h.contexts m).imp id fun ⟨x, line, hx, hheld, heq⟩ =>
      ⟨x, forget hx, by rw [heq]; exact Context.issuedOn_cases (Option.ne_none_iff_exists'.mpr ⟨_, hheld⟩) x⟩

end Sys2Proof.Machine
end

section
/-! The limits of the memory port that every step keeps: the posting order, the drain tags, the ISSUED entries of an area, and one BUSY
tag per line (R9, R11, R56, R74, R75). -/

namespace Sys2Proof.Machine

/-! ## What a move does to the queues -/

/-- Entries may have left the queue, and none has come, taken another place or become ISSUED. -/
structure QueueShrinks (q q' : List Entry) : Prop where
  places : (q'.map Entry.place).Sublist (q.map Entry.place)
  issued : q'.countP Entry.isIssued ≤ q.countP Entry.isIssued

namespace QueueShrinks

theorem of_eq {q q' : List Entry} (h : q' = q) : QueueShrinks q q' := by
  subst h
  exact ⟨List.Sublist.refl _, le_rfl⟩

theorem filter (q : List Entry) (keep : Entry → Bool) : QueueShrinks q (q.filter keep) :=
  ⟨List.filter_sublist.map _, List.filter_sublist.countP_le⟩

theorem nil (q : List Entry) : QueueShrinks q [] := ⟨List.nil_sublist _, Nat.zero_le _⟩

theorem reissue (q : List Entry) (place : Nat) :
    QueueShrinks q (q.map fun e => if e.place == place then { e with state := .reissue } else e) := by
  refine ⟨?_, ?_⟩
  · rw [List.map_map]
    have hsame : (q.map fun e => (if e.place == place then { e with state := .reissue } else e : Entry).place) = q.map Entry.place :=
      List.map_congr_left fun e _ => by split <;> rfl
    exact hsame ▸ List.Sublist.refl _
  · rw [List.countP_map]
    refine List.countP_mono_left fun e _ he => ?_
    simp only [Function.comp] at he
    split at he
    · simp [Entry.isIssued] at he
    · exact he

theorem merge (q : List Entry) (e : Entry) (w : WriteReq) : QueueShrinks (q ++ [e]) (q ++ [e.merged w]) :=
  ⟨by simp [Entry.merged], by rw [List.countP_append, List.countP_append]; exact le_rfl⟩

end QueueShrinks

/-- Every queue shrinks, and the posting order goes on, or starts again with every queue empty. -/
def QueuesShrink (s t : State) : Prop :=
  (∀ a, QueueShrinks (s.area a).queue (t.area a).queue) ∧ (t.nextPlace = s.nextPlace ∨ ∀ a, (t.area a).queue = [])

theorem queuesShrink_of_queues {s t : State} (hnext : t.nextPlace = s.nextPlace) (h : ∀ a, (t.area a).queue = (s.area a).queue) :
    QueuesShrink s t :=
  ⟨fun a => .of_eq (h a), .inl hnext⟩

theorem queuesShrink_of_areas {s t : State} (hnext : t.nextPlace = s.nextPlace) (h : t.areas = s.areas) : QueuesShrink s t :=
  queuesShrink_of_queues hnext fun a => by rw [State.area_of_areas h]

theorem queuesShrink_of_empty {s t : State} (h : ∀ a, (t.area a).queue = []) : QueuesShrink s t :=
  ⟨fun a => h a ▸ .nil _, .inr h⟩

theorem queue_of_reset {t : State} (h : t.areas = State.reset.areas) (a : AreaId) : (t.area a).queue = [] := by
  rw [State.area_of_areas h, State.reset_area]
  rfl

theorem queuesShrink_of_setArea {s t : State} {a : AreaId} {r : AreaRec} (hnext : t.nextPlace = s.nextPlace)
    (ht : ∀ b, t.area b = if b = a then r else s.area b) (hr : QueueShrinks (s.area a).queue r.queue) : QueuesShrink s t := by
  refine ⟨fun b => ?_, .inl hnext⟩
  rw [ht b]
  split
  · next hb => rwa [hb]
  · exact .of_eq rfl

/-- A move posts an entry, issues one, takes a request into the Hold List, or lets every queue shrink. -/
theorem Move.queues {X : Option TagUser} {s t : State} (hm : Move X s t) :
    QueuesShrink s t ∨ (∃ a w, t = s.postEntry a w) ∨
      (∃ c x, X = none ∧ s.lowestFree = some x ∧ s.chosen = some c ∧ t = s.issue c x) ∨ ∃ m c, t = (s.setContext m c).enterHold m := by
  cases hm with
  | post m a w => exact .inr (.inl ⟨a, w, rfl⟩)
  | issue c x hX ha ht hc => exact .inr (.inr (.inl ⟨c, x, hX, ht, hc, rfl⟩))
  | enter m c => exact .inr (.inr (.inr ⟨m, c, rfl⟩))
  | retire a keep => exact .inl (queuesShrink_of_setArea rfl (s.setQueue_area a · _) (.filter _ _))
  | reissue a place => exact .inl (queuesShrink_of_setArea rfl (s.updateEntry_area a · place _) (.reissue _ _))
  | merge a q e w hq => exact .inl (queuesShrink_of_setArea rfl (s.setQueue_area a · _) (hq ▸ .merge q e w))
  | halt a | resume a | operation a | settings a | enlist a =>
    exact .inl (queuesShrink_of_setArea rfl (s.setArea_area a · _) (.of_eq rfl))
  | join a m => exact .inl (queuesShrink_of_setArea rfl (s.joinMaster_area a · m) (.of_eq rfl))
  | beginDetach a o => exact .inl (queuesShrink_of_queues (by simp) (s.beginDetach_queue a · o))
  | endDetach a => exact .inl (queuesShrink_of_queues (by simp) (s.endDetach_queue a))
  | sizes v => exact .inl (queuesShrink_of_queues rfl fun a => by rw [State.setSizes_area])
  | finishSoftReset => exact .inl (queuesShrink_of_empty fun a => by rw [State.finishSoftReset_area]; rfl)
  | pinReset | powerOn => exact .inl (queuesShrink_of_empty (queue_of_reset rfl))
  | _ => exact .inl (queuesShrink_of_areas (by simp) (by simp [State.answer, State.setContext]))

/-! ## The posting order -/

theorem queuesOrdered_of_empty {t : State} (h : ∀ a, (t.area a).queue = []) : t.QueuesOrdered := fun a => by simp [h a]

theorem State.QueuesOrdered.shrink {s t : State} (h : s.QueuesOrdered) (hq : QueuesShrink s t) : t.QueuesOrdered := by
  obtain ⟨hshrink, hnext | hempty⟩ := hq
  · exact h.of_places hnext.ge fun a => (hshrink a).places
  · exact queuesOrdered_of_empty hempty

theorem State.QueuesOrdered.postEntry {s : State} (h : s.QueuesOrdered) (a : AreaId) (w : WriteReq) : (s.postEntry a w).QueuesOrdered := by
  intro b
  obtain ⟨hsorted, hbound⟩ := h b
  have hnext : (s.postEntry a w).nextPlace = s.nextPlace + 1 := rfl
  rw [State.postEntry_area, hnext]
  split
  · next hb =>
    subst hb
    refine ⟨List.pairwise_append.mpr ⟨hsorted, by simp, fun x hx y hy => ?_⟩, fun e he => ?_⟩
    · obtain rfl := List.mem_singleton.mp hy
      exact hbound x hx
    · obtain he | he := List.mem_append.mp he
      · exact (hbound e he).trans (Nat.lt_succ_self _)
      · obtain rfl := List.mem_singleton.mp he
        exact Nat.lt_succ_self _
  · exact ⟨hsorted, fun e he => (hbound e he).trans (Nat.lt_succ_self _)⟩

theorem State.QueuesOrdered.of_areas {s t : State} (h : s.QueuesOrdered) (hnext : t.nextPlace = s.nextPlace)
    (ha : t.areas = s.areas) : t.QueuesOrdered :=
  h.shrink (queuesShrink_of_areas hnext ha)

theorem State.QueuesOrdered.move {X : Option TagUser} {s t : State} (hm : Move X s t) (h : s.QueuesOrdered) : t.QueuesOrdered := by
  obtain hshrink | ⟨a, w, rfl⟩ | ⟨c, x, -, -, -, rfl⟩ | ⟨m, c, rfl⟩ := hm.queues
  · exact h.shrink hshrink
  · exact h.postEntry a w
  · exact h.issue c x
  · exact State.enterHold_induct m (h.of_areas rfl rfl) (fun _ _ hu => hu.of_areas rfl rfl) (fun _ c t hu _ _ => hu.issue c t)
      fun _ hu => hu.of_areas rfl rfl

/-! ## The ISSUED entries of an area -/

theorem State.issuedBounded_iff (s : State) : s.IssuedBounded ↔ ∀ a, (s.area a).queue.countP Entry.isIssued ≤ 4 := by
  simp only [List.countP_eq_length_filter]
  exact Iff.rfl

theorem countP_or_le {α : Type} (p q : α → Bool) (l : List α) : (l.countP fun x => p x || q x) ≤ l.countP p + l.countP q := by
  induction l with
  | nil => simp
  | cons x l ih =>
    simp only [List.countP_cons]
    cases p x <;> cases q x <;> simp <;> omega

/-- The issue of the head makes one more entry ISSUED, since no other entry has its place. -/
theorem countP_issuedOn_le {q : List Entry} (hq : q.Pairwise fun x y => x.place < y.place) (place : Nat) (t : TagId) :
    (q.map fun e => if e.place == place then e.issuedOn t else e).countP Entry.isIssued ≤ q.countP Entry.isIssued + 1 := by
  have hnodup : (q.map Entry.place).Nodup := (List.pairwise_map.mpr hq).imp Nat.ne_of_lt
  have hone : q.countP (fun e => e.place == place) ≤ 1 := by
    have h := List.nodup_iff_count_le_one.mp hnodup place
    rwa [List.count, List.countP_map] at h
  have hsplit : (q.map fun e => if e.place == place then e.issuedOn t else e).countP Entry.isIssued ≤
      q.countP fun e => e.isIssued || e.place == place := by
    rw [List.countP_map]
    refine List.countP_mono_left fun e _ he => ?_
    simp only [Function.comp] at he
    split at he <;> simp_all
  have hor := countP_or_le Entry.isIssued (fun e => e.place == place) q
  omega

theorem State.IssuedBounded.issue {s : State} (hq : s.QueuesOrdered) (h : s.IssuedBounded) {c : Claimant} {t : TagId}
    (hc : s.chosen = some c) : (s.issue c t).IssuedBounded := by
  rw [State.issuedBounded_iff] at h ⊢
  intro b
  obtain ⟨a, e, -, hh, hoffered, heq⟩ | ⟨m, request, -, -, -, heq⟩ := State.issue_cases hc t <;> rw [heq]
  · simp only [State.movePointer_area, State.updateEntry_area, State.occupy_area]
    split
    · obtain ⟨_, _, hcaps, -⟩ := (s.offered_iff a).mp hoffered
      obtain ⟨-, hissued, -⟩ := (s.withinCaps_iff a).mp hcaps
      exact (countP_issuedOn_le (hq a).left e.place t).trans hissued
    · exact h b
  · exact h b

theorem State.IssuedBounded.of_areas {s t : State} (h : s.IssuedBounded) (ha : t.areas = s.areas) : t.IssuedBounded :=
  fun a => by rw [State.area_of_areas ha]; exact h a

theorem State.IssuedBounded.move {X : Option TagUser} {s t : State} (hm : Move X s t) (hq : s.QueuesOrdered) (h : s.IssuedBounded) :
    t.IssuedBounded := by
  obtain ⟨hshrink, -⟩ | ⟨a, w, rfl⟩ | ⟨c, x, -, -, hc, rfl⟩ | ⟨m, c, rfl⟩ := hm.queues
  · rw [State.issuedBounded_iff] at h ⊢
    exact fun a => (hshrink a).issued.trans (h a)
  · rw [State.issuedBounded_iff] at h ⊢
    intro b
    rw [State.postEntry_area]
    split
    · simpa [State.freshEntry, Entry.isIssued] using h a
    · exact h b
  · exact h.issue hq hc
  · refine (State.enterHold_induct (P := fun u => u.QueuesOrdered ∧ u.IssuedBounded) (s := s.setContext m c) m
      ⟨hq.of_areas rfl rfl, h.of_areas rfl⟩
      (fun _ _ hu => ⟨hu.left.of_areas rfl rfl, hu.right.of_areas rfl⟩) (fun u c t hu _ hc => ⟨hu.left.issue c t, ?_⟩)
      fun _ hu => ⟨hu.left.of_areas rfl rfl, hu.right.of_areas rfl⟩).right
    exact State.IssuedBounded.issue hu.left hu.right hc

/-! ## The tags -/

/-- What a move does to the tags: one becomes BUSY by an issue, or each stays, is freed, or leaves STALE. -/
theorem Move.tags {X : Option TagUser} {s t : State} (hm : Move X s t) :
    (∀ x, t.tag x = s.tag x ∨ t.tag x = .free) ∨
      (∃ c x, s.lowestFree = some x ∧ s.chosen = some c ∧ t = s.issue c x) ∨ ∃ m c, t = (s.setContext m c).enterHold m := by
  have hsame {u : State} (h : u.tags = s.tags) (x : TagId) : u.tag x = s.tag x ∨ u.tag x = .free :=
    .inl (by simp only [State.tag, h])
  have hreset {u : State} (h : u.tags = State.reset.tags) (x : TagId) : u.tag x = s.tag x ∨ u.tag x = .free :=
    .inr (by simpa only [State.tag, h] using State.reset_tag x)
  have hrecovered {u : State} (h : ∀ x, u.tag x = (s.tag x).recovered) (x : TagId) : u.tag x = s.tag x ∨ u.tag x = .free := by
    rw [h x]
    cases s.tag x <;> simp [TagState.recovered]
  cases hm with
  | issue c x hX ha ht hc => exact .inr (.inl ⟨c, x, ht, hc, rfl⟩)
  | enter m c => exact .inr (.inr ⟨m, c, rfl⟩)
  | late y b hy => exact .inl fun x => by by_cases hx : x = y <;> simp [hx]
  | freeStale => exact .inl (hrecovered s.freeStale_tag)
  | finishSoftReset => exact .inl (hrecovered s.freeStale_tag)
  | pinReset | powerOn => exact .inl (hreset rfl)
  | _ => exact .inl (hsame (by simp [State.joinMaster, State.setSizes, State.answer, State.setContext]))

/-- The tag of an issue: its line was not busy, and it counts as a drain tag only below the bound (R56, R75). -/
theorem State.issue_tag {s : State} {c : Claimant} (hc : s.chosen = some c) (t : TagId) :
    ∃ tr, (∀ x, (s.issue c t).tag x = if x = t then .busy tr else s.tag x) ∧ s.lineBusy tr.request.line = false ∧
      (tr.user.isEntry = true → s.drainTagCount < 6) := by
  obtain ⟨a, h, -, hh, hoffered, heq⟩ | ⟨m, request, -, -, hbusy, heq⟩ := State.issue_cases hc t <;> rw [heq]
  · obtain ⟨h', hh', hcaps, horder, -⟩ := (s.offered_iff a).mp hoffered
    obtain rfl : h = h' := Option.some.inj (hh.symm.trans hh')
    obtain ⟨hbusy, -⟩ := (s.lineOrder_iff a h).mp horder
    obtain ⟨-, -, hdrain⟩ := (s.withinCaps_iff a).mp hcaps
    exact ⟨{ user := .entry a h.place, request := h.request, started := s.now, timeout := s.timeout }, by simp,
      (s.lineBusy_eq_false_iff _).mpr hbusy, fun _ => hdrain⟩
  · exact ⟨{ user := .master m, request := request, started := s.now, timeout := s.timeout }, by simp, hbusy,
      fun h => by simp [TagUser.isEntry] at h⟩

theorem State.DrainTagsBounded.of_tags {s t : State} (h : s.DrainTagsBounded)
    (ht : ∀ x, (t.tag x).drainTag = true → (s.tag x).drainTag = true) : t.DrainTagsBounded :=
  (List.countP_mono_left fun x _ => ht x).trans h

theorem State.DrainTagsBounded.issue {s : State} (h : s.DrainTagsBounded) {c : Claimant} {t : TagId} (ht : s.lowestFree = some t)
    (hc : s.chosen = some c) : (s.issue c t).DrainTagsBounded := by
  obtain ⟨hfree, -⟩ := State.lowestFree_eq_some.mp ht
  obtain ⟨tr, htag, -, hdrain⟩ := State.issue_tag hc t
  have hcount := countP_allTags_update (fun x => (s.tag x).drainTag) (fun x => ((s.issue c t).tag x).drainTag) t
    fun x hx => by rw [htag x, if_neg hx]
  have hnew : ((s.issue c t).tag t).drainTag = tr.user.isEntry := by rw [htag t, if_pos rfl]; rfl
  have hold : (s.tag t).drainTag = false := by rw [hfree]; rfl
  simp only [hnew, hold] at hcount
  change (s.issue c t).drainTagCount ≤ 6
  change s.drainTagCount ≤ 6 at h
  change (s.issue c t).drainTagCount + 0 = s.drainTagCount + _ at hcount
  split at hcount
  · next hentry =>
    have := hdrain hentry
    omega
  · omega

theorem State.DrainTagsBounded.move {X : Option TagUser} {s t : State} (hm : Move X s t) (h : s.DrainTagsBounded) :
    t.DrainTagsBounded := by
  obtain htags | ⟨c, x, ht, hc, rfl⟩ | ⟨m, c, rfl⟩ := hm.tags
  · refine h.of_tags fun x hx => ?_
    obtain heq | hfree := htags x
    · rwa [← heq]
    · rw [hfree] at hx
      cases hx
  · exact h.issue ht hc
  · exact State.enterHold_induct m (h.of_tags fun _ hx => hx) (fun _ _ hu => hu.of_tags fun _ hx => hx)
      (fun _ _ _ hu ht hc => hu.issue ht hc) fun _ hu => hu.of_tags fun _ hx => hx

theorem State.OneTagPerLine.of_tags {s t : State} (h : s.OneTagPerLine)
    (ht : ∀ x, ∀ tr ∈ (t.tag x).transaction, tr ∈ (s.tag x).transaction) : t.OneTagPerLine :=
  fun x y hxy p hp q hq => h x y hxy p (ht x p hp) q (ht y q hq)

theorem State.OneTagPerLine.issue {s : State} (h : s.OneTagPerLine) {c : Claimant} {t : TagId} (hc : s.chosen = some c) :
    (s.issue c t).OneTagPerLine := by
  obtain ⟨tr, htag, hbusy, -⟩ := State.issue_tag hc t
  rw [State.lineBusy_eq_false_iff] at hbusy
  intro x y hxy p hp q hq
  rw [htag] at hp hq
  split at hp <;> split at hq
  · next hx hy => exact absurd (hx.trans hy.symm) hxy
  · obtain rfl := Option.some.inj hp
    exact (hbusy y q hq).symm
  · obtain rfl := Option.some.inj hq
    exact hbusy x p hp
  · exact h x y hxy p hp q hq

theorem State.OneTagPerLine.move {X : Option TagUser} {s t : State} (hm : Move X s t) (h : s.OneTagPerLine) : t.OneTagPerLine := by
  obtain htags | ⟨c, x, ht, hc, rfl⟩ | ⟨m, c, rfl⟩ := hm.tags
  · refine h.of_tags fun x tr hx => ?_
    obtain heq | hfree := htags x
    · rwa [← heq]
    · rw [hfree] at hx
      cases hx
  · exact h.issue hc
  · exact State.enterHold_induct m (h.of_tags fun _ _ hx => hx) (fun _ _ hu => hu.of_tags fun _ _ hx => hx)
      (fun _ _ _ hu _ hc => hu.issue hc) fun _ hu => hu.of_tags fun _ _ hx => hx

/-! ## The two turns of a tag -/

/-- A BUSY tag that becomes FREE, or STALE with the from-drain flag of its user, is no new drain tag (R74). -/
theorem State.DrainTagsBounded.turn {s : State} (h : s.DrainTagsBounded) {t : TagId} {tr : Transaction} (ht : s.tag t = .busy tr)
    {v : TagState} (hv : v.drainTag = true → tr.user.isEntry = true) : (s.setTag t v).DrainTagsBounded := by
  refine h.of_tags fun x hx => ?_
  rw [State.setTag_tag] at hx
  split at hx
  · next heq => rw [heq, ht]; exact hv hx
  · exact hx

theorem State.OneTagPerLine.turn {s : State} (h : s.OneTagPerLine) (t : TagId) {v : TagState} (hv : v.transaction = none) :
    (s.setTag t v).OneTagPerLine := by
  refine h.of_tags fun x tr hx => ?_
  rw [State.setTag_tag] at hx
  split at hx
  · rw [hv] at hx
    cases hx
  · exact hx

/-- Settles O56, by the moves of a step: a grant is made only within the caps, in the line order, and to a line without a BUSY tag. -/
theorem portLimitsKept : Obligations.PortLimitsKept := by
  intro s s' hstep
  refine ⟨?drain, fun hq hissued => ?issued, ?line⟩
  case drain =>
    exact step_keeps (fun _ _ _ hm h => h.move hm) (fun _ _ _ ht h => h.turn ht fun hv => by cases hv)
      (fun _ _ _ ht h => h.turn ht id) hstep
  case issued =>
    exact (step_keeps (P := fun u => u.QueuesOrdered ∧ u.IssuedBounded) (fun _ _ _ hm h => ⟨h.left.move hm, h.right.move hm h.left⟩)
      (fun _ _ _ _ h => ⟨h.left.of_areas rfl rfl, h.right.of_areas rfl⟩)
      (fun _ _ _ _ h => ⟨h.left.of_areas rfl rfl, h.right.of_areas rfl⟩) hstep ⟨hq, hissued⟩).right
  case line =>
    exact step_keeps (fun _ _ _ hm h => h.move hm) (fun _ t _ _ h => h.turn t rfl) (fun _ t _ _ h => h.turn t rfl) hstep

end Sys2Proof.Machine
end

section
/-! Tags and their users agree after every step (R8 to R11, R47, R74 to R76). While the user of a turned tag is handled it is left out of
the agreement, and its handling ends with the user off the tag. -/

namespace Sys2Proof.Machine

/-! ## The Hold List -/

theorem State.HoldBounded.enterHold {s : State} (h : s.HoldBounded) (m : MasterId) : (s.enterHold m).HoldBounded := by
  have hjoin (released : Bool) : (s.joinHold m released).arbitrate.holdList.Sublist (s.holdList ++ [{ master := m, released }]) :=
    State.arbitrate_holdList _
  unfold State.enterHold
  split
  · dsimp only
    split
    · assumption
    · refine le_trans ((hjoin true).filter _).length_le ?_
      simpa using (List.length_filter_le _ _).trans h
  · split
    · next hroom => exact (hjoin false).length_le.trans (by simpa using hroom)
    · exact h

theorem State.HoldBounded.of_sublist {s t : State} (h : s.HoldBounded) (hl : t.holdList.length ≤ s.holdList.length) : t.HoldBounded :=
  hl.trans h

theorem State.HoldBounded.move {X : Option TagUser} {s t : State} (hm : Move X s t) (h : s.HoldBounded) : t.HoldBounded := by
  cases hm with
  | issue c x => exact h.of_sublist (s.issue_spec c x).2.2.2.length_le
  | enter m c => exact State.HoldBounded.enterHold (s := s.setContext m c) h m
  | markReleased f => exact h.of_sublist (by simp)
  | refuseHolds a => exact h.of_sublist (by rw [State.refuseHolds_holdList]; exact List.length_filter_le _ _)
  | pinReset | powerOn => exact Nat.zero_le _
  | _ => exact h.of_sublist (by simp [State.joinMaster, State.setSizes])

/-! ## The agreement but for one user -/

/-- Tags and users agree (State.UsersAgree), but for the user X, which no BUSY tag names. -/
def UsersAgreeBut (X : Option TagUser) (s : State) : Prop :=
  (∀ a, ∀ e ∈ (s.area a).queue, ∀ t, e.state = .issued t → X ≠ some (.entry a e.place) →
    ∃ tr ∈ (s.tag t).transaction, tr.user = .entry a e.place ∧ tr.request.line = e.line) ∧
  (∀ m t, (s.context m).tag = some t → X ≠ some (.master m) → ∃ tr ∈ (s.tag t).transaction, tr.user = .master m) ∧
  (∀ t, ∀ tr ∈ (s.tag t).transaction, X ≠ some tr.user ∧ s.userWaits t tr.user = true)

theorem usersAgreeBut_none_iff (s : State) : UsersAgreeBut none s ↔ s.UsersAgree := by
  simp [UsersAgreeBut, State.UsersAgree]

theorem State.userWaits_entry_iff (s : State) (t : TagId) (a : AreaId) (place : Nat) :
    s.userWaits t (.entry a place) = true ↔ ∃ e ∈ (s.area a).queue, e.place = place ∧ e.state = .issued t := by
  simp [State.userWaits]

theorem State.userWaits_master_iff (s : State) (t : TagId) (m : MasterId) :
    s.userWaits t (.master m) = true ↔ (s.context m).tag = some t := by
  simp [State.userWaits]

/-- A move under which no user but X starts or stops waiting on a tag. -/
structure KeepsUsers (X : Option TagUser) (s t : State) : Prop where
  busy : ∀ x, (t.tag x).transaction = (s.tag x).transaction
  back : ∀ a, ∀ e ∈ (t.area a).queue, ∀ x, e.state = .issued x →
    ∃ e' ∈ (s.area a).queue, e'.place = e.place ∧ e'.line = e.line ∧ e'.state = e.state
  forth : ∀ a, ∀ e ∈ (s.area a).queue, ∀ x, e.state = .issued x → X ≠ some (.entry a e.place) →
    ∃ e' ∈ (t.area a).queue, e'.place = e.place ∧ e'.state = e.state
  context : ∀ m, X ≠ some (.master m) → (t.context m).tag = (s.context m).tag

theorem UsersAgreeBut.of_keepsUsers {X : Option TagUser} {s t : State} (h : UsersAgreeBut X s) (k : KeepsUsers X s t) :
    UsersAgreeBut X t := by
  obtain ⟨hentry, hmaster, hbusy⟩ := h
  refine ⟨fun a e he x hx hX => ?_, fun m x hx hX => ?_, fun x tr htr => ?_⟩
  · obtain ⟨e', he', hplace, hline, hstate⟩ := k.back a e he x hx
    rw [k.busy, ← hplace, ← hline]
    exact hentry a e' he' x (hstate.trans hx) (by rwa [hplace])
  · rw [k.busy]
    exact hmaster m x (by rwa [← k.context m hX]) hX
  · rw [k.busy] at htr
    obtain ⟨hX, hwaits⟩ := hbusy x tr htr
    refine ⟨hX, ?_⟩
    cases huser : tr.user with
    | entry a place =>
      rw [huser] at hX hwaits
      obtain ⟨e, he, rfl, hstate⟩ := (s.userWaits_entry_iff x a place).mp hwaits
      obtain ⟨e', he', hplace, hstate'⟩ := k.forth a e he x hstate hX
      exact (t.userWaits_entry_iff x a e.place).mpr ⟨e', he', hplace, hstate'.trans hstate⟩
    | master m =>
      rw [huser] at hX hwaits
      rw [State.userWaits_master_iff] at hwaits ⊢
      rw [k.context m hX, hwaits]

/-- A move that changes no queue keeps every user's wait if it keeps the tags and the contexts' tags. -/
theorem KeepsUsers.of_queues {X : Option TagUser} {s t : State} (hq : ∀ a, (t.area a).queue = (s.area a).queue)
    (hb : ∀ x, (t.tag x).transaction = (s.tag x).transaction)
    (hc : ∀ m, X ≠ some (.master m) → (t.context m).tag = (s.context m).tag) : KeepsUsers X s t where
  busy := hb
  back a e he _ _ := ⟨e, hq a ▸ he, rfl, rfl, rfl⟩
  forth a e he _ _ _ := ⟨e, (hq a).symm ▸ he, rfl, rfl⟩
  context := hc

/-- A move that changes one queue and neither tag nor context. -/
theorem KeepsUsers.of_setArea {X : Option TagUser} {s t : State} {a : AreaId} {r : AreaRec}
    (ht : ∀ b, t.area b = if b = a then r else s.area b) (htags : t.tags = s.tags) (hmasters : t.masters = s.masters)
    (back : ∀ e ∈ r.queue, ∀ x, e.state = .issued x →
      ∃ e' ∈ (s.area a).queue, e'.place = e.place ∧ e'.line = e.line ∧ e'.state = e.state)
    (forth : ∀ e ∈ (s.area a).queue, ∀ x, e.state = .issued x → X ≠ some (.entry a e.place) →
      ∃ e' ∈ r.queue, e'.place = e.place ∧ e'.state = e.state) : KeepsUsers X s t where
  busy x := by simp only [State.tag, htags]
  back b e he x hx := by
    rw [ht b] at he
    split at he
    · next hb => subst hb; exact back e he x hx
    · exact ⟨e, he, rfl, rfl, rfl⟩
  forth b e he x hx hX := by
    rw [ht b]
    split
    · next hb => subst hb; exact forth e he x hx hX
    · exact ⟨e, he, rfl, rfl⟩
  context m _ := by simp only [State.context, State.master, hmasters]

theorem TagState.recovered_transaction (v : TagState) : v.recovered.transaction = v.transaction := by
  cases v <;> rfl

theorem State.fresh.tag_eq_none {s : State} {m : MasterId} (h : s.fresh m) : (s.context m).tag = none := h.answerable.right

theorem State.fresh.heldLine_eq_none {s : State} {m : MasterId} (h : s.fresh m) : (s.context m).heldLine = none := by
  obtain ⟨hidle, -⟩ | ⟨w, hw⟩ := h
  · rw [hidle]; rfl
  · rw [hw]; rfl

theorem Context.local.tag_eq_none {c : Context} (h : c.local) : c.tag = none := by
  cases c with
  | throughWait | readWait => exact h.elim
  | _ => rfl

theorem Context.tag_eq_none_of_heldLine {c : Context} (h : c.heldLine ≠ none) : c.tag = none :=
  (Context.issuedOn_spec h 0).right.right.left

theorem State.waitsOn_heldLine {s : State} {a : AreaId} {p : HoldPlace} (h : s.waitsOn a p = true) :
    (s.context p.master).heldLine ≠ none := by
  obtain ⟨-, ⟨r, hr, -⟩ | ⟨w, hw, -⟩⟩ := (s.waitsOn_iff a p).mp h
  · simp [hr, Context.heldLine]
  · simp [hw, Context.heldLine]

/-- A state without entries, issued contexts and BUSY tags. -/
def NoUsers (t : State) : Prop :=
  (∀ a, (t.area a).queue = []) ∧ (∀ m, (t.context m).tag = none) ∧ ∀ x, (t.tag x).transaction = none

theorem noUsers_of_reset {t : State} (ha : t.areas = State.reset.areas) (hm : t.masters = State.reset.masters)
    (ht : t.tags = State.reset.tags) : NoUsers t := by
  refine ⟨queue_of_reset ha, fun m => ?_, fun x => ?_⟩
  · have h : t.master m = State.reset.master m := by simp only [State.master, hm]
    rw [State.context, h, State.reset_master]
    rfl
  · have h : t.tag x = State.reset.tag x := by simp only [State.tag, ht]
    rw [h, State.reset_tag]
    rfl

theorem usersAgreeBut_of_noUsers {X : Option TagUser} {t : State} (h : NoUsers t) : UsersAgreeBut X t := by
  obtain ⟨hq, hc, hb⟩ := h
  exact ⟨fun a e he => by simp [hq a] at he, fun m x hx => by simp [hc m] at hx, fun x tr htr => by simp [hb x] at htr⟩

/-- Every move keeps the waits of all users but X, but for the issues, the entry into the Hold List, and the resets. -/
theorem Move.keepsUsers {X : Option TagUser} {s t : State} (hm : Move X s t) :
    KeepsUsers X s t ∨ NoUsers t ∨
      X = none ∧ ((∃ c x, s.lowestFree = some x ∧ s.chosen = some c ∧ t = s.issue c x) ∨
        (∃ m c, s.fresh m ∧ c.heldLine ≠ none ∧ t = (s.setContext m c).enterHold m) ∨
        s.softResetDone = true ∧ t = s.finishSoftReset) := by
  cases hm with
  | issue c x hX ha ht hc => exact .inr (.inr ⟨hX, .inl ⟨c, x, ht, hc, rfl⟩⟩)
  | enter m c hX hfresh hc => exact .inr (.inr ⟨hX, .inr (.inl ⟨m, c, hfresh, hc, rfl⟩)⟩)
  | finishSoftReset hX hmode hdone => exact .inr (.inr ⟨hX, .inr (.inr ⟨hdone, rfl⟩)⟩)
  | pinReset | powerOn => exact .inr (.inl (noUsers_of_reset rfl rfl rfl))
  | retire a keep hX =>
    refine .inl (.of_setArea (s.setQueue_area a · _) rfl rfl (fun e he x _ => ⟨e, (List.mem_filter.mp he).left, rfl, rfl, rfl⟩)
      fun e he x hx hne => ⟨e, List.mem_filter.mpr ⟨he, ?_⟩, rfl, rfl⟩)
    by_contra hdrop
    exact hne (hX e he (by simpa using hdrop) (e.isIssued_iff.mpr ⟨x, hx⟩))
  | reissue a place hX =>
    refine .inl (.of_setArea (s.updateEntry_area a · place _) rfl rfl (fun e he x hx => ?_) fun e he x hx hne => ⟨e, ?_, rfl, rfl⟩)
    · obtain ⟨e', he', rfl⟩ := List.mem_map.mp he
      split at hx
      · cases hx
      · next hplace => exact ⟨e', he', by simp [hplace]⟩
    · have hplace : e.place ≠ place := fun h => hne (h ▸ hX)
      exact List.mem_map.mpr ⟨e, he, by simp [hplace]⟩
  | merge a q e w hq hheld =>
    refine .inl (.of_setArea (s.setQueue_area a · _) rfl rfl (fun x hx y hy => ?_) fun x hx y hy _ => ?_)
    · obtain hx | hx := List.mem_append.mp hx
      · exact ⟨x, by simp [hq, hx], rfl, rfl, rfl⟩
      · obtain rfl := List.mem_singleton.mp hx
        exact absurd (hheld.symm.trans hy) nofun
    · rw [hq] at hx
      obtain hx | hx := List.mem_append.mp hx
      · exact ⟨x, List.mem_append_left _ hx, rfl, rfl⟩
      · obtain rfl := List.mem_singleton.mp hx
        exact absurd (hheld.symm.trans hy) nofun
  | post m a w =>
    refine .inl (.of_setArea (s.postEntry_area a · w) rfl rfl (fun e he x hx => ?_) fun e he x _ _ =>
      ⟨e, List.mem_append_left _ he, rfl, rfl⟩)
    obtain he | he := List.mem_append.mp he
    · exact ⟨e, he, rfl, rfl, rfl⟩
    · obtain rfl := List.mem_singleton.mp he
      cases hx
  | answer m body h hX =>
    refine .inl (.of_queues (fun _ => rfl) (fun _ => rfl) fun n hn => ?_)
    rw [State.answer_context]
    split
    · next hnm =>
      subst hnm
      by_contra hne
      exact hn (hX fun htag => hne htag.symm)
    · rfl
  | wait m c hfresh hc =>
    refine .inl (.of_queues (fun _ => rfl) (fun _ => rfl) fun n _ => ?_)
    rw [State.setContext_context]
    split
    · next hnm => rw [hnm, hfresh.tag_eq_none, hc.tag_eq_none]
    · rfl
  | refuseHolds a =>
    refine .inl (.of_queues (fun b => by simp) (fun _ => by simp) fun n _ => ?_)
    rw [State.refuseHolds_context]
    split
    · next hn =>
      obtain ⟨p, hp, rfl⟩ := List.mem_map.mp hn
      rw [Context.tag_eq_none_of_heldLine (State.waitsOn_heldLine (List.mem_filter.mp hp).right)]
      rfl
    · rfl
  | late x b hx =>
    refine .inl (.of_queues (fun _ => rfl) (fun y => ?_) fun _ _ => rfl)
    rw [State.setTag_tag]
    split
    · next hy => rw [hy, hx]; rfl
    · rfl
  | freeStale => exact .inl (.of_queues (fun _ => rfl) (fun y => by rw [State.freeStale_tag, TagState.recovered_transaction]) fun _ _ => rfl)
  | halt a | resume a | operation a | settings a | enlist a =>
    exact .inl (.of_setArea (s.setArea_area a · _) rfl rfl (fun e he _ _ => ⟨e, he, rfl, rfl, rfl⟩) fun e he _ _ _ => ⟨e, he, rfl, rfl⟩)
  | beginDetach a o =>
    exact .inl (.of_queues (s.beginDetach_queue a · o) (fun x => by simp) fun m _ => by rw [State.beginDetach_context])
  | endDetach a => exact .inl (.of_queues (s.endDetach_queue a) (fun x => by simp) fun m _ => by rw [State.endDetach_context])
  | join a m =>
    refine .inl (.of_queues (fun b => ?_) (fun _ => rfl) fun n _ => ?_)
    · rw [State.joinMaster_area]
      split
      · next hb => rw [hb]
      · rfl
    · rw [State.context, State.joinMaster_master]
      split
      · next hn => rw [hn]; rfl
      · rfl
  | sizes v => exact .inl (.of_queues (fun b => by rw [State.setSizes_area]) (fun _ => rfl) fun _ _ => rfl)
  | clearMaster m | through m =>
    refine .inl (.of_queues (fun _ => rfl) (fun _ => rfl) fun n _ => ?_)
    rw [State.setMaster_context]
    split
    · next hn => rw [hn]; rfl
    · rfl
  | charge m k line cause =>
    refine .inl (.of_queues (fun _ => rfl) (fun _ => rfl) fun n _ => by simp)
  | clearAccount m => exact .inl (.of_queues (fun _ => rfl) (fun _ => rfl) fun n _ => by simp)
  | record r => exact .inl (.of_queues (fun _ => by simp) (fun _ => by simp) fun n _ => by simp)
  | _ => exact .inl (.of_queues (fun _ => rfl) (fun _ => rfl) fun n _ => rfl)

/-! ## Grants and the entry into the Hold List -/

/-- Grants keep the agreement: what they issue is issued on a tag that is BUSY with it. -/
theorem State.UsersAgree.granted {s t : State} (h : s.UsersAgree) (g : Granted s t) : t.UsersAgree := by
  obtain ⟨hentry, hmaster, hbusy⟩ := h
  have kept {x : TagId} {tr : Transaction} (htr : tr ∈ (s.tag x).transaction) : tr ∈ (t.tag x).transaction := by
    rwa [g.tag_of_not_free fun hfree => by simp [hfree, TagState.transaction] at htr]
  have new {x : TagId} {user : TagUser} {line : Line} (hx : TagGranted s t x user line) :
      ∃ tr ∈ (t.tag x).transaction, tr.user = user ∧ tr.request.line = line := by
    obtain ⟨-, tr, htr, huser, hline⟩ := hx
    exact ⟨tr, by simp [htr, TagState.transaction], huser, hline⟩
  refine ⟨fun a e' he' x hx => ?_, fun m x hx => ?_, fun x tr htr => ?_⟩
  · obtain ⟨hlen, hall⟩ := List.forall₂_iff_get.mp (g.entries a)
    obtain ⟨i, hi, rfl⟩ := List.mem_iff_get.mp he'
    obtain heq | ⟨-, y, heq, hy⟩ := hall i (by rw [hlen]; exact i.isLt) i.isLt
    · rw [heq] at hx ⊢
      obtain ⟨tr, htr, hrest⟩ := hentry a _ (List.get_mem _ _) x hx
      exact ⟨tr, kept htr, hrest⟩
    · rw [heq] at hx ⊢
      obtain rfl := EntryState.issued.inj hx
      exact new hy
  · obtain heq | ⟨y, line, hy, hheld, heq⟩ := g.contexts m
    · obtain ⟨tr, htr, huser⟩ := hmaster m x (heq ▸ hx)
      exact ⟨tr, kept htr, huser⟩
    · obtain ⟨htag, -⟩ := Context.issuedOn_spec (Option.ne_none_iff_exists'.mpr ⟨_, hheld⟩) y
      rw [heq, htag] at hx
      obtain rfl := Option.some.inj hx
      obtain ⟨tr, htr, huser, -⟩ := new hy
      exact ⟨tr, htr, huser⟩
  · obtain heq | ⟨-, tr', htr', -, -, hwaits⟩ := g.tags x
    · exact g.userWaits (hbusy x tr (heq ▸ htr))
    · rw [htr'] at htr
      obtain rfl := Option.some.inj htr
      exact hwaits

/-- How a request enters a Hold List that is within its places: with the grants, or answered RETRY, and then nothing of it was issued. -/
theorem State.enterHold_cases {s : State} (hb : s.HoldBounded) (hq : s.QueuesOrdered) (m : MasterId) :
    (∃ released, s.enterHold m = (s.joinHold m released).arbitrate) ∨
      (∃ v, Granted (s.joinHold m true) v ∧ v.context m = s.context m ∧ s.enterHold m = (v.leaveHold m).answer m .retry) ∨
      s.enterHold m = s.answer m .retry := by
  have g : Granted (s.joinHold m true) (s.joinHold m true).arbitrate :=
    State.arbitrate_granted (State.QueuesOrdered.of_areas hq rfl rfl)
  unfold State.enterHold
  split
  · dsimp only
    split
    · exact .inl ⟨true, rfl⟩
    · next hfull =>
      refine .inr (.inl ⟨_, g, ?_, rfl⟩)
      have hlen : (s.joinHold m true).holdList.length ≤ (s.joinHold m true).arbitrate.holdList.length := by
        have hb' : s.holdList.length ≤ 8 := hb
        change ¬ _ ≤ 8 at hfull
        simp only [State.joinHold, List.length_append, List.length_singleton] at hfull ⊢
        omega
      have hsame := g.hold.eq_of_length_le hlen
      by_contra hne
      exact g.left m hne { master := m, released := true } (by rw [hsame]; simp [State.joinHold]) rfl
  · split
    · exact .inl ⟨false, rfl⟩
    · exact .inr (.inr rfl)

theorem State.UsersAgree.of_keepsUsers {s t : State} (h : s.UsersAgree) (k : KeepsUsers none s t) : t.UsersAgree :=
  (usersAgreeBut_none_iff t).mp (UsersAgreeBut.of_keepsUsers ((usersAgreeBut_none_iff s).mpr h) k)

/-- The answer of a request that is not issued. -/
theorem State.UsersAgree.answer {s : State} (h : s.UsersAgree) {m : MasterId} (hm : (s.context m).tag = none) (body : AnswerBody) :
    (s.answer m body).UsersAgree := by
  refine State.UsersAgree.of_keepsUsers h (.of_queues (fun _ => rfl) (fun _ => rfl) fun n _ => ?_)
  rw [State.answer_context]
  split
  · next hn => rw [hn, hm]; rfl
  · rfl

theorem State.UsersAgree.enterHold {s : State} (hb : s.HoldBounded) (hq : s.QueuesOrdered) (h : s.UsersAgree) {m : MasterId}
    (hm : (s.context m).tag = none) : (s.enterHold m).UsersAgree := by
  obtain ⟨released, heq⟩ | ⟨v, g, hv, heq⟩ | heq := State.enterHold_cases hb hq m <;> rw [heq]
  · exact State.UsersAgree.granted (s := s.joinHold m released) h (State.arbitrate_granted (State.QueuesOrdered.of_areas hq rfl rfl))
  · have hgranted : v.UsersAgree := State.UsersAgree.granted (s := s.joinHold m true) h g
    exact State.UsersAgree.answer (s := v.leaveHold m) hgranted (show (v.context m).tag = none by rw [hv, hm]) .retry
  · exact h.answer hm .retry

/-- At the end of a soft reset no tag is BUSY, so nothing is issued (R141). -/
theorem State.UsersAgree.finishSoftReset {s : State} (h : s.UsersAgree) (hdone : s.softResetDone = true) : NoUsers s.finishSoftReset := by
  obtain ⟨-, hidle⟩ := s.softResetDone_iff.mp hdone
  have hnone (x : TagId) : (s.tag x).transaction = none := by
    cases hx : s.tag x with
    | busy tr => simpa [hx, TagState.isBusy] using hidle x
    | _ => rfl
  refine ⟨fun a => by rw [State.finishSoftReset_area]; rfl, fun m => ?_, fun x => ?_⟩
  · obtain ⟨-, hmaster, -⟩ := h
    by_contra htag
    obtain ⟨x, hx⟩ := Option.ne_none_iff_exists'.mp htag
    obtain ⟨tr, htr, -⟩ := hmaster m x hx
    simp [hnone x] at htr
  · exact (congrArg TagState.transaction (s.freeStale_tag x)).trans ((s.tag x).recovered_transaction.trans (hnone x))

/-- What the agreement of tags and users needs of the rest of the state, and the agreement but for the user X. -/
structure AgreesBut (X : Option TagUser) (s : State) : Prop where
  hold : s.HoldBounded
  queues : s.QueuesOrdered
  users : UsersAgreeBut X s

theorem AgreesBut.move {X : Option TagUser} {s t : State} (hm : Move X s t) (h : AgreesBut X s) : AgreesBut X t := by
  refine ⟨h.hold.move hm, h.queues.move hm, ?_⟩
  obtain k | hnone | ⟨rfl, hrest⟩ := hm.keepsUsers
  · exact h.users.of_keepsUsers k
  · exact usersAgreeBut_of_noUsers hnone
  · have hs : s.UsersAgree := (usersAgreeBut_none_iff s).mp h.users
    obtain ⟨c, x, ht, hc, rfl⟩ | ⟨m, c, hfresh, hc, rfl⟩ | ⟨hdone, rfl⟩ := hrest
    · exact (usersAgreeBut_none_iff _).mpr (hs.granted (Granted.issue h.queues hc ht))
    · have htag : c.tag = none := Context.tag_eq_none_of_heldLine hc
      have hwait : (s.setContext m c).UsersAgree := State.UsersAgree.of_keepsUsers hs <|
        .of_queues (fun _ => rfl) (fun _ => rfl) fun n _ => by
          rw [State.setContext_context]
          split
          · next hn => rw [hn, htag, hfresh.tag_eq_none]
          · rfl
      exact (usersAgreeBut_none_iff _).mpr (State.UsersAgree.enterHold (s := s.setContext m c) h.hold
        (State.QueuesOrdered.of_areas h.queues rfl rfl) hwait (by simp [htag]))
    · exact usersAgreeBut_of_noUsers (hs.finishSoftReset hdone)

/-! ## The turn of a tag -/

/-- The user of the turned tag is left out of the agreement: no other tag names it. -/
theorem AgreesBut.turn {s : State} (h : AgreesBut none s) {t : TagId} {tr : Transaction} (ht : s.tag t = .busy tr) {v : TagState}
    (hv : v.transaction = none) : AgreesBut (some tr.user) (s.setTag t v) := by
  refine ⟨h.hold, State.QueuesOrdered.of_areas h.queues rfl rfl, ?_⟩
  obtain ⟨hentry, hmaster, hbusy⟩ := (usersAgreeBut_none_iff s).mp h.users
  have here {tr' : Transaction} (h' : tr' ∈ (s.tag t).transaction) : tr' = tr := by
    rw [ht] at h'
    exact (Option.some.inj h').symm
  have other {x : TagId} {tr' : Transaction} (h' : tr' ∈ (s.tag x).transaction) (hne : tr'.user ≠ tr.user) :
      tr' ∈ ((s.setTag t v).tag x).transaction := by
    rw [State.setTag_tag, if_neg]
    · exact h'
    · rintro rfl
      exact hne (by rw [here h'])
  refine ⟨fun a e he x hx hX => ?_, fun m x hx hX => ?_, fun x tr' htr' => ?_⟩
  · obtain ⟨tr', htr', huser, hline⟩ := hentry a e he x hx
    exact ⟨tr', other htr' fun h => hX (by rw [← h, huser]), huser, hline⟩
  · obtain ⟨tr', htr', huser⟩ := hmaster m x hx
    exact ⟨tr', other htr' fun h => hX (by rw [← h, huser]), huser⟩
  · rw [State.setTag_tag] at htr'
    split at htr'
    · rw [hv] at htr'
      cases htr'
    · next hx =>
      refine ⟨fun hsame => hx ?_, hbusy x tr' htr'⟩
      have hwx := hbusy x tr' htr'
      have hwt := hbusy t tr (by rw [ht]; rfl)
      rw [← Option.some.inj hsame] at hwx
      cases huser : tr.user with
      | entry a place =>
        rw [huser, State.userWaits_entry_iff] at hwx hwt
        obtain ⟨e, he, hp, hstate⟩ := hwx
        obtain ⟨e', he', hp', hstate'⟩ := hwt
        obtain rfl := h.queues.eq_of_place he he' (hp.trans hp'.symm)
        exact EntryState.issued.inj (hstate.symm.trans hstate')
      | master m =>
        rw [huser, State.userWaits_master_iff] at hwx hwt
        exact Option.some.inj (hwx.symm.trans hwt)

/-- The user waits on no tag any more. -/
def OffTag (s : State) : TagUser → Prop
  | .entry a place => ∀ e ∈ (s.area a).queue, e.place = place → ∀ x, e.state ≠ .issued x
  | .master m => (s.context m).tag = none

theorem AgreesBut.of_offTag {user : TagUser} {s : State} (h : AgreesBut (some user) s) (hoff : OffTag s user) : AgreesBut none s := by
  refine ⟨h.hold, h.queues, ?_⟩
  obtain ⟨hentry, hmaster, hbusy⟩ := h.users
  refine ⟨fun a e he x hx _ => hentry a e he x hx fun hX => ?_, fun m x hx _ => hmaster m x hx fun hX => ?_,
    fun x tr htr => ⟨nofun, (hbusy x tr htr).right⟩⟩
  · obtain rfl := Option.some.inj hX
    exact hoff e he rfl x hx
  · obtain rfl := Option.some.inj hX
    have htag : (s.context m).tag = none := hoff
    simp [htag] at hx

/-- An entry that is off its tag is not issued while the result is handled, for nothing is. -/
theorem offTag_entry_moves {a : AreaId} {place : Nat} {s t : State} (hm : Moves (some (.entry a place)) s t)
    (h : OffTag s (.entry a place)) : OffTag t (.entry a place) := by
  refine hm.keeps (P := fun u => OffTag u (.entry a place)) (fun u v hmove hu e he hplace x hx => ?_) h
  obtain k | ⟨hempty, -⟩ | ⟨hX, -⟩ := hmove.keepsUsers
  · obtain ⟨e', he', hp, -, hstate⟩ := k.back a e he x hx
    exact hu e' he' (hp.trans hplace) x (hstate.trans hx)
  · simp [hempty a] at he
  · cases hX

theorem offTag_removeEntry (s : State) (a : AreaId) (place : Nat) : OffTag (s.removeEntry a place) (.entry a place) := by
  intro e he hplace
  simp [hplace] at he

theorem State.recordFailure_offTag (s : State) (a : AreaId) (m : MasterId) (e : Entry) (how : Failure) :
    OffTag (s.recordFailure a m e how) (.entry a e.place) := by
  unfold State.recordFailure
  dsimp only
  split
  · exact offTag_entry_moves (State.answerStrict_moves _ _ _ _) (offTag_removeEntry _ _ _)
  · exact offTag_entry_moves (.one (.charge _ _ _ _ _ Nat.one_pos)) (offTag_removeEntry _ _ _)

theorem State.finalFailure_offTag (s : State) (a : AreaId) (e : Entry) (how : Failure) :
    OffTag (s.finalFailure a e how) (.entry a e.place) := by
  unfold State.finalFailure
  split
  · exact offTag_removeEntry _ _ _
  · exact offTag_entry_moves ((State.applyPolicy_moves _ _).trans (State.escalateArea_moves _ _)) (s.recordFailure_offTag a _ e how)

theorem State.attemptFailed_offTag (s : State) (a : AreaId) (e : Entry) (how : Failure) :
    OffTag (s.attemptFailed a e how) (.entry a e.place) := by
  unfold State.attemptFailed
  split
  · exact offTag_entry_moves (State.settleArea_moves _ _) (s.finalFailure_offTag a e how)
  · split
    · exact offTag_entry_moves ((State.answerStrict_moves _ _ _ _).trans (State.settleArea_moves _ _)) (offTag_removeEntry _ _ _)
    · intro e' he' hplace x hx
      simp only [State.reissueEntry, State.updateEntry_area, if_true] at he'
      obtain ⟨e'', -, rfl⟩ := List.mem_map.mp he'
      split at hx
      · cases hx
      · next hne =>
        rw [if_neg hne] at hplace
        exact hne (beq_iff_eq.mpr hplace)

theorem State.retireDone_offTag (s : State) (a : AreaId) (e : Entry) : OffTag (s.retireDone a e) (.entry a e.place) := by
  unfold State.retireDone
  dsimp only
  split
  · exact offTag_entry_moves ((State.answerStrict_moves _ _ _ _).trans (State.settleArea_moves _ _)) (offTag_removeEntry _ _ _)
  · exact offTag_entry_moves (State.settleArea_moves _ _) (offTag_removeEntry _ _ _)

theorem State.requestDone_offTag (s : State) (m : MasterId) (data : LineData) : OffTag (s.requestDone m data) (.master m) := by
  change ((s.requestDone m data).context m).tag = none
  unfold State.requestDone
  split <;> simp_all [Context.tag]

theorem State.requestFailed_offTag (s : State) (m : MasterId) (how : Failure) : OffTag (s.requestFailed m how) (.master m) := by
  change ((s.requestFailed m how).context m).tag = none
  unfold State.requestFailed
  split <;> simp_all [Context.tag]

/-- The handling of a result ends with the user off the tag: retired, returned to REISSUE, or answered. -/
theorem State.handResult_offTag (s : State) (user : TagUser) (result : MemResult) (data : LineData) :
    OffTag (s.handResult user result data) user := by
  cases user with
  | entry a place =>
    simp only [State.handResult]
    cases hat : (s.area a).entryAt place with
    | none =>
      intro e he hplace
      have hne := List.find?_eq_none.mp hat e he
      simp [hplace] at hne
    | some e =>
      obtain ⟨-, rfl⟩ := AreaRec.entryAt_mem hat
      cases result with
      | done => exact s.retireDone_offTag a e
      | failed how => exact s.attemptFailed_offTag a e how
  | master m =>
    cases result with
    | done => exact s.requestDone_offTag m data
    | failed how => exact s.requestFailed_offTag m how

theorem AgreesBut.handResult {s : State} {user : TagUser} (h : AgreesBut (some user) s) (result : MemResult) (data : LineData) :
    AgreesBut none (s.handResult user result data) :=
  ((s.handResult_moves user result data).keeps (fun _ _ hm h => h.move hm) h).of_offTag (s.handResult_offTag user result data)

theorem AgreesBut.change {s t : State} (hc : Change s t) (h : AgreesBut none s) : AgreesBut none t := by
  cases hc with
  | move hm => exact h.move hm
  | complete t tr result data ht => exact (h.turn ht rfl).handResult result data
  | expire t tr ht =>
    have hturned : AgreesBut (some tr.user) (s.setTag t (.stale tr.user.isEntry)).markStale :=
      (State.markStale_moves _).keeps (fun _ _ hm h => h.move hm) (h.turn ht rfl)
    exact hturned.handResult (.failed .expiry) zeroData

/-- Settles O57: every change of a step keeps the agreement, the handling of a turned tag's user by the agreement but for that user. -/
theorem tagsKept : Obligations.TagsKept := by
  intro s s' ⟨hhold, hqueues, husers⟩ hstep
  have h : AgreesBut none s' := (step_changes hstep).keeps (fun _ _ hc h => h.change hc)
    ⟨hhold, hqueues, (usersAgreeBut_none_iff s).mpr husers⟩
  exact ⟨h.hold, h.queues, (usersAgreeBut_none_iff s').mp h.users⟩

end Sys2Proof.Machine
end

section
/-! The bound of the response queue that every step keeps (R148): an answer takes the place of a request in progress, or is sent from an
empty queue. -/

namespace Sys2Proof.Machine

/-! ## Requests in progress -/

theorem countP_update {α : Type} [DecidableEq α] {l : List α} (hl : l.Nodup) {x : α} (hx : x ∈ l) {f g : α → Bool}
    (h : ∀ y, y ≠ x → g y = f y) : l.countP g + (if f x then 1 else 0) = l.countP f + (if g x then 1 else 0) := by
  have hrest : (l.erase x).countP g = (l.erase x).countP f :=
    List.countP_congr fun y hy => by rw [h y fun hyx => hl.not_mem_erase (hyx ▸ hy)]
  have hsplit (k : α → Bool) : l.countP k = (if k x then 1 else 0) + (l.erase x).countP k := by
    rw [(List.perm_cons_erase hx).countP_eq, List.countP_cons, Nat.add_comm]
  rw [hsplit g, hsplit f, hrest]
  omega

/-- One context changes: the number of requests in progress changes by that master's alone. -/
theorem State.inProgress_update {s t : State} {m : MasterId} (h : ∀ n, n ≠ m → t.context n = s.context n) :
    t.inProgress + (if s.context m ≠ .idle then 1 else 0) = s.inProgress + (if t.context m ≠ .idle then 1 else 0) := by
  simpa [State.inProgress] using countP_update (l := allMasters) (List.nodup_finRange 16) (mem_allMasters m) (f := fun n => decide (s.context n ≠ .idle))
    (g := fun n => decide (t.context n ≠ .idle)) fun n hn => by rw [h n hn]

theorem State.inProgress_congr {s t : State} (h : ∀ m, t.context m = .idle ↔ s.context m = .idle) : t.inProgress = s.inProgress := by
  simp only [State.inProgress, ne_eq, h]

theorem State.inProgress_le (s : State) : s.inProgress ≤ 16 := List.countP_le_length

/-- Answers waiting and requests in progress together (R148). -/
def State.load (s : State) : Nat := s.responses.length + s.inProgress

theorem State.load_of_empty {s : State} (h : s.responses = []) : s.load ≤ 16 := by
  simpa [State.load, h] using s.inProgress_le

theorem State.answer_load {s : State} {m : MasterId} (body : AnswerBody) (h : s.context m ≠ .idle) : (s.answer m body).load = s.load := by
  have hcount := State.inProgress_update (s := s) (t := s.answer m body) (m := m) fun n hn => by simp [hn]
  have hlen : (s.answer m body).responses.length = s.responses.length + 1 := by simp [State.answer, State.send]
  simp [h] at hcount
  simp only [State.load]
  omega

/-! ## The Hold List names each waiting master once -/

theorem State.HoldAgrees.of_sublist {s t : State} (h : s.HoldAgrees)
    (hl : (t.holdList.map HoldPlace.master).Sublist (s.holdList.map HoldPlace.master))
    (hc : ∀ m ∈ t.holdList.map HoldPlace.master, (t.context m).heldLine = (s.context m).heldLine) : t.HoldAgrees := by
  obtain ⟨hnodup, hheld⟩ := h
  refine ⟨hnodup.sublist hl, fun p hp => ?_⟩
  have hmem : p.master ∈ t.holdList.map HoldPlace.master := List.mem_map_of_mem hp
  obtain ⟨q, hq, hqp⟩ := List.mem_map.mp (hl.subset hmem)
  rw [hc _ hmem, ← hqp]
  exact hheld q hq

/-- A master whose context does not wait in the Hold List has no place there. -/
theorem State.HoldAgrees.not_mem {s : State} (h : s.HoldAgrees) {m : MasterId} (hm : (s.context m).heldLine = none) :
    m ∉ s.holdList.map HoldPlace.master := by
  intro hmem
  obtain ⟨p, hp, rfl⟩ := List.mem_map.mp hmem
  have hheld := h.right p hp
  simp [hm] at hheld

theorem State.HoldAgrees.setContext {s t : State} (h : s.HoldAgrees) (hl : t.holdList = s.holdList) {m : MasterId}
    (hm : (s.context m).heldLine = none) (hc : ∀ n, n ≠ m → t.context n = s.context n) : t.HoldAgrees := by
  refine h.of_sublist (by rw [hl]) fun n hn => ?_
  rw [hl] at hn
  rw [hc n fun hnm => h.not_mem hm (hnm ▸ hn)]

theorem State.HoldAgrees.joinHold {s : State} (h : s.HoldAgrees) {m : MasterId} (hm : m ∉ s.holdList.map HoldPlace.master)
    (hheld : (s.context m).heldLine ≠ none) (released : Bool) : (s.joinHold m released).HoldAgrees := by
  obtain ⟨hnodup, hall⟩ := h
  refine ⟨?_, fun p hp => ?_⟩
  · simp only [State.joinHold, List.map_append, List.map_singleton]
    exact hnodup.append (List.nodup_singleton m) (List.disjoint_singleton.mpr hm)
  · obtain hp | hp := List.mem_append.mp hp
    · exact hall p hp
    · obtain rfl := List.mem_singleton.mp hp
      exact Option.isSome_iff_ne_none.mpr hheld

theorem State.HoldAgrees.issue {s : State} (h : s.HoldAgrees) {c : Claimant} {t : TagId} (hc : s.chosen = some c) :
    (s.issue c t).HoldAgrees := by
  obtain ⟨a, e, -, -, -, heq⟩ | ⟨m, request, -, -, -, heq⟩ := State.issue_cases hc t <;> rw [heq]
  · exact h.of_sublist (List.Sublist.refl _) fun _ _ => rfl
  · refine h.of_sublist (List.filter_sublist.map _) fun n hn => ?_
    obtain ⟨p, hp, rfl⟩ := List.mem_map.mp hn
    have hne : p.master ≠ m := by simpa using (List.mem_filter.mp hp).right
    rw [State.setContext_context, if_neg hne]
    rfl

theorem State.issue_context_idle {s : State} (c : Claimant) (t : TagId) (m : MasterId) :
    (s.issue c t).context m = .idle ↔ s.context m = .idle := by
  obtain ⟨-, heq | ⟨hheld, htag⟩⟩ := (s.issue_spec c t).right.left m
  · rw [heq]
  · refine ⟨fun h => ?_, fun h => ?_⟩
    · rw [h] at htag
      exact absurd rfl htag
    · rw [h] at hheld
      exact absurd rfl hheld

theorem State.orderAnswers_perm (s : State) (k : Nat) : (s.orderAnswers k).responses.Perm s.responses :=
  ((sortAnswers_perm _).append_left _).trans (.of_eq (List.take_append_drop k s.responses))

/-! ## Every move -/

/-- State.AnswersBounded, with the bound said of the load. -/
theorem State.answersBounded_iff (s : State) : s.AnswersBounded ↔ s.HoldAgrees ∧ s.load ≤ 17 := Iff.rfl

theorem State.AnswersBounded.issue {s : State} (h : s.AnswersBounded) {c : Claimant} {t : TagId} (hc : s.chosen = some c) :
    (s.issue c t).AnswersBounded := by
  refine ⟨h.left.issue hc, ?_⟩
  rw [State.inProgress_congr (s.issue_context_idle c t)]
  simpa using h.right

theorem State.AnswersBounded.of_same {s t : State} (h : s.AnswersBounded)
    (hl : t.holdList.map HoldPlace.master = s.holdList.map HoldPlace.master) (hr : t.responses.length ≤ s.responses.length)
    (hc : ∀ m, t.context m = s.context m) : t.AnswersBounded := by
  refine ⟨h.left.of_sublist (by rw [hl]) fun m _ => by rw [hc m], ?_⟩
  rw [State.inProgress_congr (s := s) (t := t) fun m => by rw [hc m]]
  exact (Nat.add_le_add_right hr _).trans h.right

theorem State.AnswersBounded.answer {s : State} (h : s.AnswersBounded) {m : MasterId} (body : AnswerBody)
    (hm : m ∉ s.holdList.map HoldPlace.master) (hidle : s.context m ≠ .idle ∨ s.responses = []) : (s.answer m body).AnswersBounded := by
  refine ⟨h.left.of_sublist (List.Sublist.refl _) fun n hn => ?_, ?_⟩
  · have hne : n ≠ m := fun hnm => hm (hnm ▸ hn)
    simp [hne]
  · change (s.answer m body).load ≤ 17
    by_cases hi : s.context m = .idle
    · have hcount : (s.answer m body).inProgress ≤ 16 := State.inProgress_le _
      have hlen : (s.answer m body).responses.length = 1 := by
        simp [State.answer, State.send, hidle.resolve_left fun hne => hne hi]
      simp only [State.load]
      omega
    · rw [State.answer_load body hi]
      exact h.right

/-- The answers of a halt to held requests: each takes the place of one in progress (R50). -/
theorem foldl_answer_load (l : List HoldPlace) (u : State) (hnodup : (l.map HoldPlace.master).Nodup)
    (hbusy : ∀ p ∈ l, u.context p.master ≠ .idle) :
    (l.foldl (fun s p => s.answer p.master (.error .halted)) u).load = u.load := by
  induction l generalizing u with
  | nil => rfl
  | cons p l ih =>
    obtain ⟨hp, hnodup⟩ := List.nodup_cons.mp hnodup
    rw [List.foldl_cons, ih _ hnodup fun q hq => ?_, State.answer_load _ (hbusy p (by simp))]
    have hne : q.master ≠ p.master := fun h => hp (h ▸ List.mem_map_of_mem hq)
    simpa [hne] using hbusy q (by simp [hq])

theorem State.AnswersBounded.refuseHolds {s : State} (h : s.AnswersBounded) (a : AreaId) : (s.refuseHolds a).AnswersBounded := by
  obtain ⟨hagree, hload⟩ := h
  obtain ⟨hnodup, hheld⟩ := hagree
  refine ⟨State.HoldAgrees.of_sublist ⟨hnodup, hheld⟩ ?_ fun n hn => ?_, ?_⟩
  · rw [State.refuseHolds_holdList]
    exact List.filter_sublist.map _
  · rw [State.refuseHolds_holdList] at hn
    rw [State.refuseHolds_context, if_neg]
    intro hn'
    obtain ⟨p, hp, rfl⟩ := List.mem_map.mp hn
    obtain ⟨q, hq, hqp⟩ := List.mem_map.mp hn'
    obtain ⟨hp, hkeep⟩ := List.mem_filter.mp hp
    obtain ⟨hq, hdrop⟩ := List.mem_filter.mp hq
    obtain rfl := List.inj_on_of_nodup_map hnodup hq hp hqp
    simp [hdrop] at hkeep
  · refine (foldl_answer_load _ _ (hnodup.sublist (List.filter_sublist.map _)) fun p hp hidle => ?_).trans_le hload
    exact (State.waitsOn_heldLine (List.mem_filter.mp hp).right) (congrArg Context.heldLine hidle)

/-- A request just taken, or a write that leaves its posting wait, enters the Hold List. -/
theorem State.AnswersBounded.enter {s : State} (h : s.AnswersBounded) {m : MasterId} {c : Context} (hfresh : s.fresh m)
    (hc : c.heldLine ≠ none) : ((s.setContext m c).enterHold m).AnswersBounded := by
  have hidle : c ≠ .idle := fun hi => hc (congrArg Context.heldLine hi)
  have hout : m ∉ (s.setContext m c).holdList.map HoldPlace.master := h.left.not_mem hfresh.heldLine_eq_none
  have hset : (s.setContext m c).AnswersBounded := by
    refine ⟨h.left.setContext rfl hfresh.heldLine_eq_none fun n hn => by simp [hn], ?_⟩
    change (s.setContext m c).load ≤ 17
    obtain ⟨-, hempty⟩ | ⟨w, hw⟩ := hfresh
    · exact (State.load_of_empty (s := s.setContext m c) hempty).trans (by decide)
    · have hcount := State.inProgress_update (s := s) (t := s.setContext m c) (m := m) fun n hn => by simp [hn]
      simp [hw, hidle] at hcount
      simpa [State.load, hcount] using h.right
  have hjoin (released : Bool) : ((s.setContext m c).joinHold m released).arbitrate.AnswersBounded ∧
      ((s.setContext m c).joinHold m released).arbitrate.context m ≠ .idle := by
    refine State.arbitrate_induct (P := fun u => u.AnswersBounded ∧ u.context m ≠ .idle) _ ⟨⟨?_, hset.right⟩, ?_⟩ ?_
    · exact hset.left.joinHold hout (by simpa using hc) released
    · simpa using hidle
    · rintro u c' t ⟨hu, hne⟩ - - hchosen
      exact ⟨hu.issue hchosen, fun hi => hne ((u.issue_context_idle c' t m).mp hi)⟩
  unfold State.enterHold
  split
  · dsimp only
    split
    · exact (hjoin true).left
    · obtain ⟨hbound, hne⟩ := hjoin true
      refine State.AnswersBounded.answer (s := State.leaveHold _ m) ⟨hbound.left.of_sublist (List.filter_sublist.map _) fun _ _ => rfl,
        hbound.right⟩ .retry ?_ (.inl hne)
      simp [State.leaveHold]
  · split
    · exact (hjoin false).left
    · exact hset.answer .retry hout (.inl (by simpa using hidle))

theorem answersBounded_reset {t : State} (hl : t.holdList = []) (hr : t.responses = []) : t.AnswersBounded :=
  ⟨⟨by simp [hl], by simp [hl]⟩, (State.load_of_empty hr).trans (by decide)⟩

theorem State.AnswersBounded.move {X : Option TagUser} {s t : State} (hm : Move X s t) (h : s.AnswersBounded) : t.AnswersBounded := by
  cases hm with
  | issue c x hX ha ht hc => exact h.issue hc
  | enter m c hX hfresh hc => exact h.enter hfresh hc
  | refuseHolds a => exact h.refuseHolds a
  | send m body hempty =>
    refine ⟨h.left.of_sublist (List.Sublist.refl _) fun _ _ => rfl, ?_⟩
    have hcount : (s.send m body).inProgress ≤ 16 := State.inProgress_le _
    simp only [State.send, hempty, List.nil_append, List.length_singleton] at hcount ⊢
    omega
  | answer m body hwho =>
    refine h.answer body ?_ (hwho.imp And.left And.right)
    obtain ⟨-, hheld⟩ | ⟨hidle, -⟩ := hwho
    · exact h.left.not_mem hheld
    · exact h.left.not_mem (by rw [hidle]; rfl)
  | wait m c hfresh hc hi =>
    refine ⟨h.left.setContext rfl hfresh.heldLine_eq_none fun n hn => by simp [hn], ?_⟩
    change (s.setContext m c).load ≤ 17
    obtain ⟨-, hempty⟩ | ⟨w, hw⟩ := hfresh
    · exact (State.load_of_empty (s := s.setContext m c) hempty).trans (by decide)
    · have hcount := State.inProgress_update (s := s) (t := s.setContext m c) (m := m) fun n hn => by simp [hn]
      simp [hw, hi] at hcount
      simpa [State.load, hcount] using h.right
  | deliver => exact h.of_same rfl (by simp) fun _ => rfl
  | order k => exact h.of_same rfl (s.orderAnswers_perm k).length_eq.le fun _ => rfl
  | markReleased f =>
    refine h.of_same ?_ le_rfl fun _ => rfl
    rw [List.map_map]
    refine List.map_congr_left fun p _ => ?_
    simp only [Function.comp]
    split <;> rfl
  | clearMaster m | through m =>
    refine h.of_same rfl le_rfl fun n => ?_
    rw [State.setMaster_context]
    split
    · next hn => rw [hn]; rfl
    · rfl
  | join a m =>
    refine h.of_same rfl le_rfl fun n => ?_
    rw [State.context, State.joinMaster_master]
    split
    · next hn => rw [hn]; rfl
    · rfl
  | beginDetach a o => exact h.of_same (by simp) (by simp) (s.beginDetach_context a o)
  | endDetach a => exact h.of_same (by simp) (by simp) (s.endDetach_context a)
  | charge | clearAccount | record => exact h.of_same (by simp) (by simp) fun n => by simp
  | pinReset | powerOn => exact answersBounded_reset rfl rfl
  | _ => exact h.of_same rfl le_rfl fun _ => rfl

/-- Settles O58, by the moves of a step; the turn of a tag touches neither the answers nor the contexts. -/
theorem answersKept : Obligations.AnswersKept := by
  intro s s' hs hstep
  exact step_keeps (fun _ _ _ hm h => h.move hm) (fun _ _ _ _ h => h.of_same rfl le_rfl fun _ => rfl)
    (fun _ _ _ _ h => h.of_same rfl le_rfl fun _ => rfl) hstep hs

end Sys2Proof.Machine
end

section
/-! Areas and masters agree on their joins after every step (R3 to R5, R14, R15, R17). -/

namespace Sys2Proof.Machine

/-- The end of a detach with the master that leaves it (R17). -/
theorem State.endDetach_eq {s : State} {a : AreaId} {m : MasterId} (hstate : (s.area a).state = .detaching)
    (hqueue : (s.area a).queue = []) (hmaster : (s.area a).master = some m) :
    s.endDetach a = ((s.setArea a (s.area a).detached).setMaster m { s.master m with detachingArea := none }).raise .detached := by
  unfold State.endDetach
  rw [if_pos ⟨hstate, hqueue⟩, hmaster]
  rfl

theorem AreaRec.detached_free (r : AreaRec) : r.detached.state = .free ∧ r.detached.master = none := by
  unfold AreaRec.detached
  dsimp only
  split <;> exact ⟨rfl, rfl⟩

/-- What JoinsAgree reads of an area record, as it was. -/
structure SameJoins (r r' : AreaRec) : Prop where
  master : r'.master = r.master
  joined : r'.state = .joined ∨ r'.state = .halted ↔ r.state = .joined ∨ r.state = .halted
  detaching : r'.state = .detaching ↔ r.state = .detaching
  empty : r'.state = .free → r.state = .free ∧ (r.queue = [] → r'.queue = [])

theorem SameJoins.of_queue {r r' : AreaRec} (hm : r'.master = r.master) (hs : r'.state = r.state)
    (hq : r.state = .free → r.queue = [] → r'.queue = []) : SameJoins r r' :=
  ⟨hm, by rw [hs], by rw [hs], fun h => ⟨hs ▸ h, hq (hs ▸ h)⟩⟩

theorem State.JoinsAgree.of_same {s t : State} (h : s.JoinsAgree) (ha : ∀ a, SameJoins (s.area a) (t.area a))
    (hm : ∀ m, (t.master m).joinedArea = (s.master m).joinedArea ∧ (t.master m).detachingArea = (s.master m).detachingArea) :
    t.JoinsAgree := by
  obtain ⟨hjoined, hdetaching, hhas, hleaves, hfree⟩ := h
  refine ⟨fun m a hj => ?_, fun m a hd => ?_, fun a hs => ?_, fun a hs => ?_, fun a hs => ?_⟩
  · rw [(hm m).left] at hj
    rw [(hm m).right, (ha a).master, (ha a).joined]
    exact hjoined m a hj
  · rw [(hm m).right] at hd
    rw [(ha a).master, (ha a).detaching]
    exact hdetaching m a hd
  · obtain ⟨m, hmaster, hj⟩ := hhas a ((ha a).joined.mp hs)
    exact ⟨m, by rw [(ha a).master, hmaster], by rw [(hm m).left, hj]⟩
  · obtain ⟨m, hmaster, hd⟩ := hleaves a ((ha a).detaching.mp hs)
    exact ⟨m, by rw [(ha a).master, hmaster], by rw [(hm m).right, hd]⟩
  · obtain ⟨hs', hq⟩ := (ha a).empty hs
    obtain ⟨hmaster, hempty⟩ := hfree a hs'
    exact ⟨by rw [(ha a).master, hmaster], hq hempty⟩

theorem State.JoinsAgree.of_setArea {s t : State} {a : AreaId} {r : AreaRec} (h : s.JoinsAgree)
    (ht : ∀ b, t.area b = if b = a then r else s.area b) (hm : t.masters = s.masters) (hr : SameJoins (s.area a) r) : t.JoinsAgree := by
  refine h.of_same (fun b => ?_) fun m => by simp only [State.master, hm, and_self]
  rw [ht b]
  split
  · next hb => rwa [hb]
  · exact .of_queue rfl rfl fun _ hq => hq

theorem State.JoinsAgree.of_masters {s t : State} (h : s.JoinsAgree) (ha : t.areas = s.areas)
    (hm : ∀ m, (t.master m).joinedArea = (s.master m).joinedArea ∧ (t.master m).detachingArea = (s.master m).detachingArea) :
    t.JoinsAgree :=
  h.of_same (fun a => by rw [State.area_of_areas ha]; exact .of_queue rfl rfl fun _ hq => hq) hm

theorem State.JoinsAgree.of_setMaster {s t : State} (h : s.JoinsAgree) (ha : t.areas = s.areas) {m : MasterId} {r : MasterRec}
    (ht : ∀ n, t.master n = if n = m then r else s.master n)
    (hr : r.joinedArea = (s.master m).joinedArea ∧ r.detachingArea = (s.master m).detachingArea) : t.JoinsAgree := by
  refine h.of_masters ha fun n => ?_
  rw [ht n]
  split
  · next hn => rwa [hn]
  · exact ⟨rfl, rfl⟩

theorem State.JoinsAgree.issue {s : State} (h : s.JoinsAgree) (c : Claimant) (t : TagId) : (s.issue c t).JoinsAgree := by
  obtain ⟨hareas, hmasters, -⟩ := s.issue_spec c t
  refine h.of_same (fun a => ?_) fun m => ?_
  · rw [(hareas a).left]
    exact .of_queue rfl rfl fun _ hq => by
      have hlen := s.issue_queue_length c t a
      rwa [hq, List.length_nil, List.length_eq_zero_iff] at hlen
  · rw [(hmasters m).left]
    exact ⟨rfl, rfl⟩

/-- JOIN makes a FREE area and a master without any join name each other (R14). -/
theorem State.JoinsAgree.joinMaster {s : State} (h : s.JoinsAgree) {a : AreaId} {m : MasterId} (ha : (s.area a).state = .free)
    (hj : (s.master m).joinedArea = none) (hd : (s.master m).detachingArea = none) : (s.joinMaster a m).JoinsAgree := by
  obtain ⟨hjoined, hdetaching, hhas, hleaves, hfree⟩ := h
  simp only [State.JoinsAgree, State.joinMaster_area, State.joinMaster_master]
  refine ⟨fun n b hn => ?_, fun n b hn => ?_, fun b hb => ?_, fun b hb => ?_, fun b hb => ?_⟩
  · by_cases hnm : n = m
    · subst hnm
      obtain rfl : a = b := by simpa using hn
      simp [hd]
    · rw [if_neg hnm] at hn ⊢
      obtain ⟨hnone, hmaster, hstate⟩ := hjoined n b hn
      have hba : b ≠ a := by rintro rfl; simp [ha] at hstate
      simpa [hba] using ⟨hnone, hmaster, hstate⟩
  · have hn' : (s.master n).detachingArea = some b := by
      split at hn
      · next hnm => rwa [hnm]
      · exact hn
    obtain ⟨hmaster, hstate⟩ := hdetaching n b hn'
    have hba : b ≠ a := by rintro rfl; simp [ha] at hstate
    simpa [hba] using ⟨hmaster, hstate⟩
  · by_cases hba : b = a
    · exact ⟨m, by simp [hba]⟩
    · rw [if_neg hba] at hb ⊢
      obtain ⟨n, hmaster, hn⟩ := hhas b hb
      have hnm : n ≠ m := by rintro rfl; simp [hj] at hn
      exact ⟨n, hmaster, by simpa [hnm] using hn⟩
  · by_cases hba : b = a
    · simp [hba] at hb
    · rw [if_neg hba] at hb ⊢
      obtain ⟨n, hmaster, hn⟩ := hleaves b hb
      have hnm : n ≠ m := by rintro rfl; simp [hd] at hn
      exact ⟨n, hmaster, by simpa [hnm] using hn⟩
  · by_cases hba : b = a
    · simp [hba] at hb
    · rw [if_neg hba] at hb ⊢
      exact hfree b hb

/-- The area's master loses its join and gains the area as its detaching area (R15). -/
theorem State.JoinsAgree.beginDetach {s : State} (h : s.JoinsAgree) {a : AreaId} (o : LongOp)
    (hs : (s.area a).state = .joined ∨ (s.area a).state = .halted) : (s.beginDetach a o).JoinsAgree := by
  obtain ⟨hjoined, hdetaching, hhas, hleaves, hfree⟩ := h
  obtain ⟨m, hm, hma⟩ := hhas a hs
  obtain ⟨hdnone, -⟩ := hjoined m a hma
  have hother (n : MasterId) (hn : n ≠ m) : ¬ (s.area a).master = some n := by
    rw [hm]
    exact fun h => hn (Option.some.inj h).symm
  simp only [State.JoinsAgree, State.beginDetach_area, State.beginDetach_master]
  refine ⟨fun n b hn => ?_, fun n b hn => ?_, fun b hb => ?_, fun b hb => ?_, fun b hb => ?_⟩
  · by_cases hnm : n = m
    · subst hnm
      simp [hm] at hn
    · rw [if_neg (hother n hnm)] at hn ⊢
      obtain ⟨hnone, hmaster, hstate⟩ := hjoined n b hn
      have hba : b ≠ a := by rintro rfl; exact hother n hnm hmaster
      simpa [hba] using ⟨hnone, hmaster, hstate⟩
  · by_cases hnm : n = m
    · subst hnm
      obtain rfl : a = b := by simpa [hm] using hn
      simp [hm]
    · rw [if_neg (hother n hnm)] at hn
      obtain ⟨hmaster, hstate⟩ := hdetaching n b hn
      have hba : b ≠ a := by rintro rfl; exact hother n hnm hmaster
      simpa [hba] using ⟨hmaster, hstate⟩
  · by_cases hba : b = a
    · simp [hba] at hb
    · rw [if_neg hba] at hb ⊢
      obtain ⟨n, hmaster, hn⟩ := hhas b hb
      have hnm : n ≠ m := by
        rintro rfl
        exact hba (Option.some.inj (hn.symm.trans hma))
      exact ⟨n, hmaster, by rwa [if_neg (hother n hnm)]⟩
  · by_cases hba : b = a
    · exact ⟨m, by simp [hba, hm]⟩
    · rw [if_neg hba] at hb ⊢
      obtain ⟨n, hmaster, hn⟩ := hleaves b hb
      have hnm : n ≠ m := by rintro rfl; simp [hdnone] at hn
      exact ⟨n, hmaster, by rwa [if_neg (hother n hnm)]⟩
  · by_cases hba : b = a
    · simp [hba] at hb
    · rw [if_neg hba] at hb ⊢
      exact hfree b hb

/-- The master of an emptied DETACHING area leaves it, and the area becomes FREE (R17). -/
theorem State.JoinsAgree.endDetach {s : State} (h : s.JoinsAgree) (a : AreaId) : (s.endDetach a).JoinsAgree := by
  by_cases hends : (s.area a).state = .detaching ∧ (s.area a).queue = []
  swap
  · rw [State.endDetach_of_not (by tauto)]
    exact h
  obtain ⟨hstate, hqueue⟩ := hends
  obtain ⟨hjoined, hdetaching, hhas, hleaves, hfree⟩ := h
  obtain ⟨m, hm, hma⟩ := hleaves a hstate
  obtain ⟨hdfree, hdnone⟩ := (s.area a).detached_free
  have hdqueue : (s.area a).detached.queue = [] := by rw [AreaRec.detached_queue, hqueue]
  rw [State.endDetach_eq hstate hqueue hm]
  simp only [State.JoinsAgree, State.raise_area, State.raise_master, State.setMaster_area, State.setArea_area, State.setMaster_master,
    State.setArea_master]
  refine ⟨fun n b hn => ?_, fun n b hn => ?_, fun b hb => ?_, fun b hb => ?_, fun b hb => ?_⟩
  · have hn' : (s.master n).joinedArea = some b := by
      split at hn
      · next hnm => rwa [hnm]
      · exact hn
    obtain ⟨hnone, hmaster, hb⟩ := hjoined n b hn'
    have hba : b ≠ a := by rintro rfl; simp [hstate] at hb
    refine ⟨?_, by simpa [hba] using ⟨hmaster, hb⟩⟩
    split
    · rfl
    · exact hnone
  · by_cases hnm : n = m
    · simp [hnm] at hn
    · rw [if_neg hnm] at hn
      obtain ⟨hmaster, hb⟩ := hdetaching n b hn
      have hba : b ≠ a := by
        rintro rfl
        exact hnm (Option.some.inj (hmaster.symm.trans hm))
      simpa [hba] using ⟨hmaster, hb⟩
  · by_cases hba : b = a
    · simp [hba, hdfree] at hb
    · rw [if_neg hba] at hb ⊢
      obtain ⟨n, hmaster, hn⟩ := hhas b hb
      refine ⟨n, hmaster, ?_⟩
      split
      · next hnm => rwa [hnm] at hn
      · exact hn
  · by_cases hba : b = a
    · simp [hba, hdfree] at hb
    · rw [if_neg hba] at hb ⊢
      obtain ⟨n, hmaster, hn⟩ := hleaves b hb
      have hnm : n ≠ m := by
        rintro rfl
        exact hba (Option.some.inj (hn.symm.trans hma))
      exact ⟨n, hmaster, by rwa [if_neg hnm]⟩
  · by_cases hba : b = a
    · simp [hba, hdnone, hdqueue]
    · rw [if_neg hba] at hb ⊢
      exact hfree b hb

/-- A state without joins: every area FREE, empty and without a master. -/
theorem joinsAgree_of_free {t : State} (ha : ∀ a, (t.area a).state = .free ∧ (t.area a).master = none ∧ (t.area a).queue = [])
    (hm : ∀ m, (t.master m).joinedArea = none ∧ (t.master m).detachingArea = none) : t.JoinsAgree := by
  refine ⟨fun m a h => ?_, fun m a h => ?_, fun a h => ?_, fun a h => ?_, fun a _ => (ha a).right⟩
  · simp [(hm m).left] at h
  · simp [(hm m).right] at h
  · simp [(ha a).left] at h
  · simp [(ha a).left] at h

theorem joinsAgree_reset : State.reset.JoinsAgree :=
  joinsAgree_of_free (fun a => by rw [State.reset_area]; exact ⟨rfl, rfl, rfl⟩) fun m => by rw [State.reset_master]; exact ⟨rfl, rfl⟩

/-- With every area FREE no master has a join, and the end of the soft reset makes none (R141). -/
theorem State.JoinsAgree.finishSoftReset {s : State} (h : s.JoinsAgree) (hdone : s.softResetDone = true) :
    s.finishSoftReset.JoinsAgree := by
  obtain ⟨hjoined, hdetaching, -⟩ := h
  obtain ⟨hfree, -⟩ := s.softResetDone_iff.mp hdone
  refine joinsAgree_of_free (fun a => by rw [State.finishSoftReset_area]; exact ⟨rfl, rfl, rfl⟩) fun m => ⟨?_, ?_⟩
  · refine Option.eq_none_iff_forall_ne_some.mpr fun a ha => ?_
    obtain ⟨-, -, hstate⟩ := hjoined m a ha
    simp [hfree a] at hstate
  · refine Option.eq_none_iff_forall_ne_some.mpr fun a ha => ?_
    obtain ⟨-, hstate⟩ := hdetaching m a ha
    simp [hfree a] at hstate

theorem State.JoinsAgree.move {X : Option TagUser} {s t : State} (hm : Move X s t) (h : s.JoinsAgree) : t.JoinsAgree := by
  cases hm with
  | issue c x => exact h.issue c x
  | enter m c =>
    exact State.enterHold_induct m (h.of_setMaster rfl (s.setContext_master m · c) ⟨rfl, rfl⟩) (fun _ _ hu => hu.of_masters rfl fun _ => ⟨rfl, rfl⟩)
      (fun _ c t hu _ _ => hu.issue c t) fun u hu => hu.of_setMaster rfl (u.answer_master m · .retry) ⟨rfl, rfl⟩
  | answer m body => exact h.of_setMaster rfl (s.answer_master m · body) ⟨rfl, rfl⟩
  | wait m c => exact h.of_setMaster rfl (s.setContext_master m · c) ⟨rfl, rfl⟩
  | charge m k line cause => exact h.of_setMaster rfl (s.charge_master m · k line cause) ⟨rfl, rfl⟩
  | clearAccount m => exact h.of_setMaster rfl (s.clearAccount_master m ·) ⟨rfl, rfl⟩
  | clearMaster m | through m => exact h.of_setMaster rfl (s.setMaster_master m · _) ⟨rfl, rfl⟩
  | refuseHolds a => exact h.of_masters (by simp) fun m => by rw [State.refuseHolds_master_eq]; exact ⟨rfl, rfl⟩
  | record r => exact h.of_masters (by simp) fun m => by simp
  | retire a keep => exact h.of_setArea (s.setQueue_area a · _) rfl (.of_queue rfl rfl fun _ hq => by simp [hq])
  | reissue a place => exact h.of_setArea (s.updateEntry_area a · place _) rfl (.of_queue rfl rfl fun _ hq => by simp [hq])
  | merge a q e w htail => exact h.of_setArea (s.setQueue_area a · _) rfl (.of_queue rfl rfl fun _ hq => by simp [hq] at htail)
  | post m a w hj hh =>
    refine h.of_setArea (s.postEntry_area a · w) rfl (.of_queue rfl rfl fun hfree _ => ?_)
    obtain hj | hj := hj
    · obtain ⟨-, -, hstate⟩ := h.left m a hj
      simp [hfree] at hstate
    · simp [hfree] at hj
  | halt a hs => exact h.of_setArea (s.setArea_area a · _) rfl ⟨rfl, by simp [hs], by simp [hs], nofun⟩
  | resume a hs => exact h.of_setArea (s.setArea_area a · _) rfl ⟨rfl, by simp [hs], by simp [hs], nofun⟩
  | operation a | settings a | enlist a => exact h.of_setArea (s.setArea_area a · _) rfl (.of_queue rfl rfl fun _ hq => hq)
  | beginDetach a o hs => exact h.beginDetach o hs
  | endDetach a => exact h.endDetach a
  | join a m ha hz hj hd => exact h.joinMaster ha hj hd
  | sizes v => exact h.of_same (fun a => by rw [State.setSizes_area]; exact .of_queue rfl rfl fun _ hq => hq) fun _ => ⟨rfl, rfl⟩
  | finishSoftReset hX hmode hdone => exact h.finishSoftReset hdone
  | pinReset | powerOn => exact joinsAgree_reset.of_masters rfl fun _ => ⟨rfl, rfl⟩
  | _ => exact h.of_masters rfl fun _ => ⟨rfl, rfl⟩

/-- Settles O59, by the moves of a step: JOIN, the begin and the end of a detach change both sides together. -/
theorem joinsKept : Obligations.JoinsKept := by
  intro s s' hs hstep
  exact step_keeps (fun _ _ _ hm h => h.move hm) (fun _ _ _ _ h => h.of_masters rfl fun _ => ⟨rfl, rfl⟩)
    (fun _ _ _ _ h => h.of_masters rfl fun _ => ⟨rfl, rfl⟩) hstep hs

end Sys2Proof.Machine
end

section
/-! RESET#, the power-on state and the commands that are turned away: what a state held in reset takes, and the values of a reset (R143,
R144, R148, R159). -/

namespace Sys2Proof.Machine

/-- Settles O1: the front of the queue decides the step's branch. -/
theorem stepRunsFrontCommand : Obligations.StepRunsFrontCommand := fun _ _ _ => rfl

/-! ## Under RESET# -/

theorem State.fabricReady_of_held {s : State} (h : s.resetHeld = true) : s.fabricReady = false := by
  simp [State.fabricReady, h]

theorem State.takeRequest_of_not_ready {s : State} (h : s.fabricReady = false) (m : MasterId) (k : State → State) :
    s.takeRequest m k = s := by
  simp [State.takeRequest, h]

/-- A fabric request of any kind is not taken by a port that is not ready (R148). -/
theorem exec_request_of_not_ready {s : State} (h : s.fabricReady = false) (m : MasterId) (line : Line) (mask : Mask) (strict : Bool)
    (data : LineData) (kind : BitVec 2) :
    exec (.write m line mask strict data) s = .next s ∧ exec (.read m line mask) s = .next s ∧ exec (.sync m) s = .next s ∧
      exec (.unknownKindRequest m kind) s = .next s := by
  refine ⟨?_, ?_, ?_, ?_⟩
  · exact congrArg Host.Outcome.next (State.takeRequest_of_not_ready h m _)
  · exact congrArg Host.Outcome.next (State.takeRequest_of_not_ready h m _)
  · exact congrArg Host.Outcome.next (State.takeRequest_of_not_ready h m _)
  · exact congrArg Host.Outcome.next (if_neg (by simp [h]))

/-- Settles O7: the port is not ready, and every other command that does not outlive the reset runs under State.unlessReset. -/
theorem heldResetTakesNothing : Obligations.HeldResetTakesNothing := by
  intro s c hheld hout
  have hready := State.fabricReady_of_held hheld
  cases c with
  | write m line mask strict data => exact (exec_request_of_not_ready hready m line mask strict data 0).left
  | read m line mask => exact (exec_request_of_not_ready hready m line mask false zeroData 0).right.left
  | sync m => exact (exec_request_of_not_ready hready m 0 0 false zeroData 0).right.right.left
  | unknownKindRequest m kind => exact (exec_request_of_not_ready hready m 0 0 false zeroData kind).right.right.right
  | memoryReady level => exact absurd (.inl ⟨level, rfl⟩) hout
  | selectAssertion => exact absurd (.inr (.inl rfl)) hout
  | selectRelease => exact absurd (.inr (.inr (.inl rfl))) hout
  | resetRelease straps => exact absurd (.inr (.inr (.inr (.inl ⟨straps, rfl⟩)))) hout
  | powerOn straps low => exact absurd (.inr (.inr (.inr (.inr ⟨straps, low, rfl⟩)))) hout
  | _ => exact congrArg Host.Outcome.next (State.unlessReset_of_held hheld _)

/-- A request of a master whose context is not IDLE is answered ERROR PROTOCOL (R6, R149). -/
theorem State.takeRequest_of_busy {s : State} {m : MasterId} (hready : s.fabricReady = true) (hm : s.context m ≠ .idle)
    (k : State → State) : s.takeRequest m k = s.send m (.error .protocol) := by
  simp [State.takeRequest, hready, hm]

/-- Settles O8: the port's readiness is tested first, then the one-request rule, which an unlisted kind does not reach. -/
theorem requestsTurnedAway : Obligations.RequestsTurnedAway := by
  intro s m line mask strict data kind
  refine ⟨fun hnot => ?notTaken, fun hempty hreset => ?taken⟩
  case notTaken =>
    have hready : s.fabricReady = false := (bool_eq_false_iff s.fabricReady_iff).mpr fun h => by
      obtain ⟨hempty, hreset⟩ := h
      simp [hempty, hreset] at hnot
    exact exec_request_of_not_ready hready m line mask strict data kind
  case taken =>
    have hready : s.fabricReady = true := s.fabricReady_iff.mpr ⟨hempty, hreset⟩
    have hsend := State.send_of_fabricReady hready m (.error .protocol)
    refine ⟨fun hm => ?_, ?_⟩
    · have hrefuse (k : State → State) := (State.takeRequest_of_busy hready hm k).trans hsend
      exact ⟨congrArg Host.Outcome.next (hrefuse _), congrArg Host.Outcome.next (hrefuse _), congrArg Host.Outcome.next (hrefuse _)⟩
    · exact congrArg Host.Outcome.next ((if_pos hready).trans hsend)

/-! ## The reset values -/

theorem State.head_of_empty {s : State} {a : AreaId} (h : (s.area a).queue = []) : (s.area a).head = none := by
  simp [AreaRec.head, h]

theorem State.offered_of_empty {s : State} {a : AreaId} (h : (s.area a).queue = []) : s.offered a = false :=
  (bool_eq_false_iff (s.offered_iff a)).mpr fun ⟨e, he, _⟩ => by simp [State.head_of_empty h] at he

theorem State.chosen_of_empty {s : State} (hhold : s.holdList = []) (hqueue : ∀ a, (s.area a).queue = []) : s.chosen = none :=
  s.chosen_eq_none_iff.mpr ⟨by simp [hhold], fun a => State.offered_of_empty (hqueue a)⟩

/-- Settles O3: the areas, masters and tags are the reset records, and the computed views find nothing in them. -/
theorem resetValues : Obligations.ResetValues := by
  have hqueue (a : AreaId) : (State.reset.area a).queue = [] := queue_of_reset rfl a
  have hhead (a : AreaId) : (State.reset.area a).head = none := State.head_of_empty (hqueue a)
  have hurgent (a : AreaId) : State.reset.urgent a = false := by
    refine (bool_eq_false_iff (urgentAreas State.reset a)).mpr ?_
    have hhold : State.reset.holdList = [] := rfl
    have hmode : State.reset.mode = .running := rfl
    simp [hhold, hmode, AreaRec.reset]
  refine ⟨State.reset_area, State.reset_master, State.reset_tag, rfl, rfl, rfl, rfl, rfl, rfl, rfl, rfl, by decide, rfl, rfl, rfl, rfl,
    rfl, rfl, rfl, ?pool, ?drain, fun a => ⟨hurgent a, ?blocked, ?linger⟩, rfl⟩
  case pool => simp [State.poolOccupancy, AreaRec.occupancy, AreaRec.reset]
  case drain => simp [State.drainTagCount, TagState.drainTag]
  case blocked => rw [State.blockedBy_eq, hhead]; rfl
  case linger => simp only [State.lingerTimer, hhead]

theorem usersAgree_reset : State.reset.UsersAgree := (usersAgreeBut_none_iff _).mp (usersAgreeBut_of_noUsers (noUsers_of_reset rfl rfl rfl))

theorem arbiterDone_of_empty {s : State} (hhold : s.holdList = []) (hqueue : ∀ a, (s.area a).queue = []) : s.ArbiterDone :=
  fun _ => .inr (State.chosen_of_empty hhold hqueue)

theorem testsMade_reset : State.reset.TestsMade := by
  refine ⟨fun a => ?_, ⟨fun m w h => ?_, fun m k h => ?_⟩, fun p hp => ?_, fun hm => ?_⟩
  · simp [State.AreaWaits, AreaRec.reset]
  · simp [State.context, MasterRec.reset] at h
  · simp [State.context, MasterRec.reset] at h
  · cases hp
  · cases hm

/-- Settles O4: the reset state has no entry, no request in progress and no BUSY tag, and its sizes fill the pool. -/
theorem resetStateIsSafe : Obligations.ResetStateIsSafe := by
  have hqueue (a : AreaId) : (State.reset.area a).queue = [] := queue_of_reset rfl a
  refine ⟨poolWithin_reset, settingsLegal_reset, accountsExact_reset, logBounded_reset, ?drain, ?issued, ?line,
    ⟨Nat.zero_le _, queuesOrdered_of_empty hqueue, usersAgree_reset⟩, answersBounded_reset rfl rfl, joinsAgree_reset,
    ⟨arbiterDone_of_empty rfl hqueue, joinsAgree_reset, fun h => by cases h⟩, testsMade_reset⟩
  case drain => simp [State.DrainTagsBounded, State.drainTagCount, TagState.drainTag]
  case issued => intro a; rw [hqueue a]; exact Nat.zero_le _
  case line => intro x y _ tr htr; simp [TagState.transaction] at htr

/-! ## POWER_ON, RESET_RELEASE and PIN_RESET -/

theorem exec_powerOn (straps : BitVec 2) (low : Bool) (s : State) :
    exec (.powerOn straps low) s =
      .next { State.reset with straps := straps, resetHeld := low, memoryReady := s.memoryReady, pending := s.pending } := rfl

theorem exec_pinReset (s : State) : exec .pinReset s = .next (s.unlessReset State.pinReset) := rfl

/-- Settles O5: a RESET# that is low at power-on is held, so PIN_RESET does not act. -/
theorem powerOnAndRelease : Obligations.PowerOnAndRelease := by
  intro s straps later low
  refine ⟨exec_powerOn straps low s, rfl, fun t ht => ?_⟩
  rw [exec_powerOn] at ht
  obtain rfl := Host.Outcome.next.inj ht
  rw [exec_pinReset, State.unlessReset_of_held rfl]

theorem Frame.afterPin_eq (f : Frame) : f.afterPin = if f = .waiting then .waiting else .abandoned := by
  cases f <;> rfl

/-- Settles O6: the record is made of what the reset destroys, and the rest is the reset state with what the reset keeps. -/
theorem pinResetCountsAndResets : Obligations.PinResetCountsAndResets := by
  intro s
  refine ⟨fun hreset => ⟨s.pinReset, ?taken, rfl, ?lost, ?uncertain, rfl, rfl, rfl, ?rest⟩, fun hheld => ?held⟩
  case taken => rw [exec_pinReset, State.unlessReset_of_running hreset]
  case lost => simp only [← List.countP_eq_length_filter]; rfl
  case uncertain => simp only [← List.countP_eq_length_filter]; rfl
  case rest => rw [← Frame.afterPin_eq]; rfl
  case held => rw [exec_pinReset, State.unlessReset_of_held hheld]

end Sys2Proof.Machine
end

section
/-! When the arbiter still has nothing left to do: a change after which no head is newly offered and no request newly grantable (R65). -/

namespace Sys2Proof.Machine

theorem joinsMove : JoinsMove := fun _ _ _ hm h => State.JoinsAgree.move hm h

theorem State.arbiterDone_iff (s : State) :
    s.ArbiterDone ↔ (s.canAccept = true → s.lowestFree = none ∨
      (∀ p ∈ s.holdList, s.grantable p = false) ∧ ∀ a, s.offered a = false) := by
  rw [← State.chosen_eq_none_iff]

/-- The change t of s puts nothing new before the arbiter: queues and tags stay; an area with entries keeps what its offer depends on,
and gains no long operation; a context stays or becomes IDLE, a through-write only where its line is busy; no place is added. -/
structure Quieter (s t : State) : Prop where
  accepts : t.canAccept = true → s.canAccept = true
  tags : t.tags = s.tags
  mode : t.mode = s.mode
  now : t.now = s.now
  hold : t.holdList ⊆ s.holdList
  contexts : ∀ m, t.context m = s.context m ∨ t.context m = .idle ∧ ∀ w ∈ (s.context m).through, s.lineBusy w.line = true
  queue : ∀ a, (t.area a).queue = (s.area a).queue
  area : ∀ a, (s.area a).queue ≠ [] → (t.area a).state = (s.area a).state ∧ (t.area a).master = (s.area a).master ∧
    (t.area a).linger = (s.area a).linger ∧ (t.area a).highWater = (s.area a).highWater ∧
    ((t.area a).pendingOp ≠ none → (s.area a).pendingOp ≠ none)

namespace Quieter

variable {s t : State}

theorem tag (h : Quieter s t) (x : TagId) : t.tag x = s.tag x := by simp only [State.tag, h.tags]

theorem lineBusy (h : Quieter s t) (line : Line) : t.lineBusy line = s.lineBusy line := by simp only [State.lineBusy, h.tag]

theorem head (h : Quieter s t) (a : AreaId) : (t.area a).head = (s.area a).head := by simp only [AreaRec.head, h.queue]

/-- A context that is not IDLE is as it was. -/
theorem context_eq (h : Quieter s t) {m : MasterId} {c : Context} (hc : t.context m = c) (hne : c ≠ .idle) : s.context m = c := by
  obtain heq | ⟨hidle, -⟩ := h.contexts m
  · rw [← heq, hc]
  · exact absurd (hc.symm.trans hidle) hne

theorem urgent (h : Quieter s t) {a : AreaId} (ha : (s.area a).queue ≠ []) (hu : t.urgent a = true) : s.urgent a = true := by
  obtain ⟨hstate, hmaster, -, -, hop⟩ := h.area a ha
  rw [urgentAreas] at hu ⊢
  simp only [hstate, hmaster, h.mode, h.queue, h.head] at hu
  obtain ⟨m, mark, hm, hc⟩ | ⟨m, hm, hs, hc⟩ | ⟨p, hp, hr, r, hc, he⟩ | ⟨p, hp, hr, w, hc, he⟩ | hpend | hrest := hu
  · exact .inl ⟨m, mark, hm, h.context_eq hc nofun⟩
  · refine .inr (.inl ⟨m, hm, hs, ?_⟩)
    exact hc.imp (fun ⟨w, hw⟩ => ⟨w, h.context_eq hw nofun⟩) fun ⟨place, hplace⟩ => ⟨place, h.context_eq hplace nofun⟩
  · exact .inr (.inr (.inl ⟨p, h.hold hp, hr, r, h.context_eq hc nofun, he⟩))
  · exact .inr (.inr (.inr (.inl ⟨p, h.hold hp, hr, w, h.context_eq hc nofun, he⟩)))
  · exact .inr (.inr (.inr (.inr (.inl (hop hpend)))))
  · exact .inr (.inr (.inr (.inr (.inr hrest))))

theorem lineOrder (h : Quieter s t) {a : AreaId} {e : Entry} (ho : t.lineOrder a e = true) : s.lineOrder a e = true := by
  rw [State.lineOrder_iff] at ho ⊢
  obtain ⟨hbusy, holder, hthrough⟩ := ho
  simp only [h.tag] at hbusy
  simp only [h.queue] at holder
  refine ⟨hbusy, holder, fun m w hw hline => ?_⟩
  obtain heq | ⟨-, hgone⟩ := h.contexts m
  · exact hthrough m w (by rwa [heq]) hline
  · rw [← State.lineBusy_eq_false_iff, ← hline, hgone w hw] at hbusy
    cases hbusy

theorem offered (h : Quieter s t) {a : AreaId} (ho : t.offered a = true) : s.offered a = true := by
  obtain ⟨e, hhead, hcaps, horder, hstrict, hlinger⟩ := (t.offered_iff a).mp ho
  rw [h.head] at hhead
  have ha : (s.area a).queue ≠ [] := List.ne_nil_of_mem (AreaRec.head_mem hhead)
  obtain ⟨hstate, -, hlin, hhigh, -⟩ := h.area a ha
  refine (s.offered_iff a).mpr ⟨e, hhead, ?_, h.lineOrder horder, ?_, ?_⟩
  · rw [State.withinCaps_iff] at hcaps ⊢
    simpa only [hstate, AreaRec.issuedCount, h.queue, State.drainTagCount, h.tag] using hcaps
  · rw [State.strictClear_iff] at hstrict ⊢
    simpa only [h.queue] using hstrict
  · rw [State.lingered_iff] at hlinger ⊢
    simp only [hlin, hhigh, AreaRec.occupancy, h.queue, h.now] at hlinger
    exact hlinger.imp_right (.imp_right (.imp_right (.imp_right (h.urgent ha))))

theorem grantable (h : Quieter s t) {p : HoldPlace} (hg : t.grantable p = true) : s.grantable p = true := by
  obtain ⟨hrel, line, hheld, hbusy⟩ := (t.grantable_iff p).mp hg
  rw [h.lineBusy] at hbusy
  have hne : t.context p.master ≠ .idle := fun hi => by simp [hi, Context.heldLine] at hheld
  exact (s.grantable_iff p).mpr ⟨hrel, line, by rwa [h.context_eq rfl hne], hbusy⟩

theorem lowestFree (h : Quieter s t) : t.lowestFree = s.lowestFree := by simp only [State.lowestFree, h.tag]

theorem arbiterDone (h : Quieter s t) (hs : s.ArbiterDone) : t.ArbiterDone := by
  rw [State.arbiterDone_iff] at hs ⊢
  intro hacc
  rw [h.lowestFree]
  refine (hs (h.accepts hacc)).imp_right fun ⟨hg, ho⟩ => ⟨fun p hp => ?_, fun a => ?_⟩
  · exact Bool.eq_false_iff.mpr fun hp' => absurd (h.grantable hp') (by simp [hg p (h.hold hp)])
  · exact Bool.eq_false_iff.mpr fun ha => absurd (h.offered ha) (by simp [ho a])

/-- A change of what the arbiter does not look at. -/
theorem of_same (ha : t.areas = s.areas) (hc : ∀ m, t.context m = s.context m ∨ t.context m = .idle ∧ (s.context m).through = none)
    (ht : t.tags = s.tags) (hl : t.holdList ⊆ s.holdList) (hmode : t.mode = s.mode) (hnow : t.now = s.now)
    (hacc : t.canAccept = true → s.canAccept = true) : Quieter s t where
  accepts := hacc
  tags := ht
  mode := hmode
  now := hnow
  hold := hl
  contexts m := (hc m).imp_right fun ⟨hidle, hnone⟩ => ⟨hidle, by simp [hnone]⟩
  queue a := by rw [State.area_of_areas ha]
  area a _ := by
    rw [State.area_of_areas ha]
    exact ⟨rfl, rfl, rfl, rfl, id⟩

end Quieter

/-! ## A request that is answered RETRY -/

/-- A request issued on a BUSY tag stays so under further grants. -/
theorem State.grants_issued {u : State} {m : MasterId} {c : Context} {x : TagId} {tr : Transaction} (n : Nat)
    (hc : u.context m = c) (hheld : c.heldLine = none) (hx : u.tag x = .busy tr) :
    (State.grants n u).context m = c ∧ (State.grants n u).tag x = .busy tr := by
  refine State.grants_induct (P := fun v => v.context m = c ∧ v.tag x = .busy tr) n u ⟨hc, hx⟩ ?_
  rintro v d y ⟨hv, hvx⟩ - hy -
  obtain ⟨-, hmasters, htags, -⟩ := v.issue_spec d y
  obtain ⟨hfree, -⟩ := State.lowestFree_eq_some.mp hy
  have hxy : x ≠ y := by rintro rfl; simp [hvx] at hfree
  refine ⟨?_, by rw [htags x hxy, hvx]⟩
  obtain heq | ⟨hne, -⟩ := (hmasters m).right
  · rw [heq, hv]
  · exact absurd (by rw [hv, hheld]) hne

/-- A request whose line is clear makes no area urgent and no head offered (R48, R62). -/
theorem State.offered_of_lineClear {s : State} {m : MasterId} {c : Context} (hc : c.heldLine ≠ none)
    (hclear : (s.setContext m c).lineClear c = true) (hidle : s.context m = .idle) {a : AreaId}
    (ho : ((s.setContext m c).joinHold m true).offered a = true) : s.offered a = true := by
  have hcontext (n : MasterId) : ((s.setContext m c).joinHold m true).context n = if n = m then c else s.context n := by simp
  have hwait {n : MasterId} {d : Context} (hn : ((s.setContext m c).joinHold m true).context n = d) (hd : d.heldLine = none) :
      s.context n = d := by
    rw [hcontext] at hn
    split at hn
    · exact absurd (by rw [hn, hd]) hc
    · exact hn
  have hplace {p : HoldPlace} (hp : p ∈ s.holdList ++ [{ master := m, released := true }]) (hr : p.released = false) : p ∈ s.holdList := by
    obtain hp | hp := List.mem_append.mp hp
    · exact hp
    · obtain rfl := List.mem_singleton.mp hp
      cases hr
  have hurgent (hu : ((s.setContext m c).joinHold m true).urgent a = true) : s.urgent a = true := by
    rw [urgentAreas] at hu ⊢
    obtain ⟨n, mark, hn, hd⟩ | ⟨n, hn, hs, hd⟩ | ⟨p, hp, hr, r, hd, e, he, hline⟩ | ⟨p, hp, hr, w, hd, e, he, hline, hplaced⟩ | hrest := hu
    · exact .inl ⟨n, mark, hn, hwait hd rfl⟩
    · exact .inr (.inl ⟨n, hn, hs, hd.imp (fun ⟨w, hw⟩ => ⟨w, hwait hw rfl⟩) fun ⟨place, hw⟩ => ⟨place, hwait hw rfl⟩⟩)
    · rw [hcontext] at hd
      split at hd
      · subst hd
        have hlive : (s.setContext m (.readWait r .inHold)).lineLive r.line = false := by
          simpa [State.lineClear] using (Bool.and_eq_true_iff.mp hclear).left
        exact absurd ((State.lineLive_iff _ r.line).mpr ⟨a, e, he, hline⟩) (Bool.eq_false_iff.mp hlive)
      · exact .inr (.inr (.inl ⟨p, hplace hp hr, hr, r, hd, e, he, hline⟩))
    · rw [hcontext] at hd
      split at hd
      · subst hd
        have hlive : (s.setContext m (.throughWait w .inHold)).lineLiveBefore w.line w.mark = false := by
          simpa [State.lineClear] using (Bool.and_eq_true_iff.mp hclear).left
        exact absurd ((State.lineLiveBefore_iff _ w.line w.mark).mpr ⟨a, e, he, hline, hplaced⟩) (Bool.eq_false_iff.mp hlive)
      · exact .inr (.inr (.inr (.inl ⟨p, hplace hp hr, hr, w, hd, e, he, hline, hplaced⟩)))
    · exact .inr (.inr (.inr (.inr hrest)))
  obtain ⟨e, hhead, hcaps, horder, hstrict, hlinger⟩ := (State.offered_iff _ a).mp ho
  refine (s.offered_iff a).mpr ⟨e, hhead, hcaps, ?_, hstrict, ?_⟩
  · rw [State.lineOrder_iff] at horder ⊢
    obtain ⟨hbusy, holder, hthrough⟩ := horder
    refine ⟨hbusy, holder, fun n w hw hline => hthrough n w ?_ hline⟩
    have hne : n ≠ m := by
      rintro rfl
      simp [hidle, Context.through] at hw
    rwa [hcontext, if_neg hne]
  · rw [State.lingered_iff] at hlinger ⊢
    exact hlinger.imp_right (.imp_right (.imp_right (.imp_right hurgent)))

theorem Context.line_of_through {c : Context} {line : Line} (h : c.heldLine = some line) {w : ThroughReq} (hw : w ∈ c.through) :
    w.line = line := by
  obtain ⟨r, rfl, -⟩ | ⟨w', rfl, hline⟩ := (c.heldLine_eq_some_iff line).mp h
  · cases hw
  · obtain rfl := Option.some.inj hw
    exact hline

/-- With nothing else before the arbiter, the first grant after a request whose line is clear has entered is that request's. -/
theorem State.chosen_of_lineClear {s : State} {m : MasterId} {c : Context} (hs : s.ArbiterDone) (hc : c.heldLine ≠ none)
    (hclear : (s.setContext m c).lineClear c = true) (hidle : s.context m = .idle) (hacc : s.canAccept = true)
    (hfree : s.lowestFree ≠ none) {d : Claimant} (hd : ((s.setContext m c).joinHold m true).chosen = some d) : d = .master m := by
  obtain ⟨hgrant, hoffer⟩ := ((s.arbiterDone_iff.mp hs) hacc).resolve_left hfree
  obtain ⟨a, rfl, ho⟩ | ⟨p, hp, rfl, hg⟩ := State.chosen_offered hd
  · exact absurd (State.offered_of_lineClear hc hclear hidle ho) (by simp [hoffer a])
  · by_contra hne
    have hpm : p.master ≠ m := fun h => hne (by rw [h])
    have hp' : p ∈ s.holdList := by
      obtain hp | hp := List.mem_append.mp hp
      · exact hp
      · obtain rfl := List.mem_singleton.mp hp
        exact absurd rfl hpm
    rw [State.grantable_iff] at hg
    have hsame : ((s.setContext m c).joinHold m true).context p.master = s.context p.master := by simp [hpm]
    rw [hsame] at hg
    exact absurd ((s.grantable_iff p).mpr hg) (by simp [hgrant p hp'])

/-- RETRY to a request whose line is busy lets no head pass that the request held up (R57). -/
theorem Quieter.retry_issued {v : State} {m : MasterId} {x : TagId} {tr : Transaction} (htag : v.tag x = .busy tr)
    (hline : ∀ w ∈ (v.context m).through, w.line = tr.request.line) : Quieter v ((v.leaveHold m).answer m .retry) where
  accepts := id
  tags := rfl
  mode := rfl
  now := rfl
  hold := List.filter_sublist.subset
  contexts n := by
    rw [State.answer_context]
    split
    · next hn =>
      subst hn
      exact .inr ⟨rfl, fun w hw => (v.lineBusy_iff _).mpr ⟨x, tr, by rw [htag]; rfl, (hline w hw).symm⟩⟩
    · exact .inl rfl
  queue _ := rfl
  area _ _ := ⟨rfl, rfl, rfl, rfl, id⟩

/-- The entry into the Hold List leaves the arbiter without work, even where it ends with RETRY: then no grant was made, or the line of
the request is busy with it. -/
theorem State.enterHold_arbiterDone {s : State} {m : MasterId} {c : Context} (hs : s.ArbiterDone) (hc : c.heldLine ≠ none)
    (hidle : s.context m = .idle) : ((s.setContext m c).enterHold m).ArbiterDone := by
  have back (l : List HoldPlace) (hl : l ⊆ s.holdList) :
      Quieter s (({ s.setContext m c with holdList := l } : State).answer m .retry) := by
    refine .of_same rfl (fun n => .inl ?_) rfl hl rfl rfl id
    rw [State.answer_context]
    split
    · next hn => rw [hn, hidle]
    · next hn => exact (s.setContext_context m n c).trans (if_neg hn)
  unfold State.enterHold
  split
  · next hclear =>
    rw [State.setContext_context, if_pos rfl] at hclear
    dsimp only
    split
    · exact State.arbitrate_done _
    · cases hgrant : ((s.setContext m c).joinHold m true).grantOnce with
      | none =>
        have hstays : ((s.setContext m c).joinHold m true).arbitrate = (s.setContext m c).joinHold m true := by
          simp only [State.arbitrate, State.grants, hgrant]
        rw [hstays]
        refine (back _ fun p hp => ?_).arbiterDone hs
        obtain ⟨hp, hne⟩ := List.mem_filter.mp hp
        obtain hp | hp := List.mem_append.mp hp
        · exact hp
        · obtain rfl := List.mem_singleton.mp hp
          simp at hne
      | some v =>
        obtain ⟨d, x, hacc, hx, hd, rfl⟩ := State.grantOnce_eq_some hgrant
        have hfree : s.lowestFree = some x := hx
        obtain rfl := State.chosen_of_lineClear hs hc hclear hidle hacc (by simp [hfree]) hd
        obtain ⟨a, h, hca, -⟩ | ⟨n, request, hn, hheld, -, heq⟩ := State.issue_cases hd x
        · cases hca
        · obtain rfl := Claimant.master.inj hn
          have hcontext : ((s.setContext m c).joinHold m true).context m = c := by simp
          rw [hcontext] at hheld heq
          obtain ⟨-, hnone, -, hthrough, -⟩ := Context.issuedOn_spec hc x
          have hfirst : ((s.setContext m c).joinHold m true).arbitrate =
              State.grants 7 (((s.setContext m c).joinHold m true).issue (.master m) x) := by
            simp only [State.arbitrate, State.grants, hgrant]
          obtain ⟨hctx, htag⟩ := State.grants_issued (u := ((s.setContext m c).joinHold m true).issue (.master m) x) (m := m) (x := x)
            (tr := { user := .master m, request := request, started := s.now, timeout := s.timeout }) 7 (by rw [heq]; simp) hnone
            (by rw [heq]; simp)
          rw [← hfirst] at hctx htag
          refine (Quieter.retry_issued htag fun w hw => ?_).arbiterDone (State.arbitrate_done _)
          rw [hctx, hthrough] at hw
          exact Context.line_of_through hheld hw
  · split
    · exact State.arbitrate_done _
    · exact (back s.holdList (List.Subset.refl _)).arbiterDone hs

end Sys2Proof.Machine
end

section
/-! After every step the arbiter has nothing left to do, and none of the bridge's own seven tests is left unmade (R65; log 2). -/

namespace Sys2Proof.Machine

/-- What the state t, reached from s, leaves undone: nothing for the arbiter, nothing live under RESET#, and nothing to test if s
left nothing. -/
structure Rests (s t : State) : Prop where
  done : t.ArbiterDone
  held : t.HeldEmpty
  tests : s.QueuesOrdered → s.HoldAgrees → s.TestsMade → t.TestsMade

theorem State.heldEmpty_of_awake {t : State} (h : t.resetHeld = false) : t.HeldEmpty := fun hheld => by simp [h] at hheld

namespace Rests

variable {s t u : State}

theorem refl (hs : s.Settled) : Rests s s := ⟨hs.left, hs.right.right, fun _ _ h => h⟩

/-- The state that a command answers is the one it rests in. -/
theorem next (h : (.next u : Result) = .next t) (hu : Rests s u) : Rests s t := by
  obtain rfl := Host.Outcome.next.inj h
  exact hu

theorem arbitrate (hreset : u.resetHeld = false) (ht : s.QueuesOrdered → s.HoldAgrees → s.TestsMade → u.TestsMade) :
    Rests s u.arbitrate :=
  ⟨State.arbitrate_done u, State.heldEmpty_of_awake (by simpa using hreset), fun hq ha h => State.arbitrate_testsMade (ht hq ha h)⟩

theorem of_quieter (hdone : s.ArbiterDone) (h : Quieter s t) (hreset : t.resetHeld = false)
    (ht : s.QueuesOrdered → s.HoldAgrees → s.TestsMade → t.TestsMade) : Rests s t :=
  ⟨h.arbiterDone hdone, State.heldEmpty_of_awake hreset, ht⟩

/-- A change of what neither the arbiter nor the tests look at. -/
theorem of_same (h : Rests s t) (ha : u.areas = t.areas := by rfl) (hm : u.masters = t.masters := by rfl)
    (hh : u.holdList = t.holdList := by rfl) (ht : u.tags = t.tags := by rfl) (hmode : u.mode = t.mode := by rfl)
    (hnow : u.now = t.now := by rfl) (hready : u.memoryReady = t.memoryReady := by rfl)
    (hreset : u.resetHeld = t.resetHeld := by rfl) : Rests s u where
  done := by
    refine Quieter.arbiterDone (.of_same ha (fun m => .inl ?_) ht (hh ▸ List.Subset.refl _) hmode hnow fun h => ?_) h.done
    · simp only [State.context, State.master, hm]
    · simpa only [State.canAccept, hready, hreset] using h
  held hheld := by
    obtain ⟨hhold, hqueue⟩ := h.held (hreset ▸ hheld)
    exact ⟨hh.trans hhold, fun a => by rw [State.area_of_areas ha]; exact hqueue a⟩
  tests hq hagrees hs := testsMade_of_same (h.tests hq hagrees hs) ha hm hh ht hmode

theorem unlessReset (hs : s.Settled) {k : State → State} (h : s.resetHeld = false → Rests s (k s)) : Rests s (s.unlessReset k) := by
  cases hreset : s.resetHeld with
  | true =>
    rw [State.unlessReset_of_held hreset]
    exact refl hs
  | false =>
    rw [State.unlessReset_of_running hreset]
    exact h hreset

/-- A management command rests where its effect does; the frame it leaves is nothing to either (R117). -/
theorem command (hs : s.Settled) {args : Nat} {k : State → Taken} (h : s.resetHeld = false → Rests s (k s).state) :
    Rests s (s.command args k) := by
  refine unlessReset hs fun hreset => ?_
  split
  · exact (h hreset).of_same
  · exact refl hs

theorem runningCommand (hs : s.Settled) {args : Nat} {k : State → Taken}
    (h : s.resetHeld = false → s.mode = .running → Rests s (k s).state) : Rests s (s.runningCommand args k) := by
  refine command hs fun hreset => ?_
  cases hmode : s.mode with
  | running => simpa [hmode] using h hreset hmode
  | shutdown => simpa [hmode, State.refuse] using refl hs

/-- A request of the fabric port rests where its decision does (R6, R148). -/
theorem takeRequest (hs : s.Settled) {m : MasterId} {k : State → State} (h : s.resetHeld = false → s.context m = .idle → Rests s (k s)) :
    Rests s (s.takeRequest m k) := by
  unfold State.takeRequest
  split
  · next hready =>
    split
    · next hidle => exact h (s.fabricReady_iff.mp hready).right hidle
    · exact (refl hs).of_same
  · exact refl hs

/-- A SYNC's answer, or any other, frees only a context that holds no through-write. -/
theorem of_answered (hdone : s.ArbiterDone) {m : MasterId} (hm : (s.context m).through = none) (ha : t.areas = s.areas)
    (hc : ∀ n, n ≠ m → t.context n = s.context n) (hidle : t.context m = .idle) (ht : t.tags = s.tags) (hh : t.holdList = s.holdList)
    (hmode : t.mode = s.mode) (hnow : t.now = s.now) (hready : t.memoryReady = s.memoryReady) (hreset : t.resetHeld = s.resetHeld)
    (hawake : s.resetHeld = false) (htests : s.TestsMade → t.TestsMade) : Rests s t := by
  refine of_quieter hdone (.of_same ha (fun n => ?_) ht (hh ▸ List.Subset.refl _) hmode hnow fun h => ?_) (hreset.trans hawake) fun _ _ => htests
  · by_cases hn : n = m
    · exact .inr (hn ▸ ⟨hidle, hm⟩)
    · exact .inl (hc n hn)
  · simpa only [State.canAccept, hready, hreset] using h

end Rests

/-! ## The fabric port -/

theorem State.answerHaltTerms_context (s : State) (m n : MasterId) :
    (s.answerHaltTerms m).context n = if n = m then .idle else s.context n := by
  unfold State.answerHaltTerms State.answerDeferred
  split <;> by_cases hn : n = m <;> simp [hn]

theorem rests_answerSync {s : State} {m : MasterId} (hdone : s.ArbiterDone) (hawake : s.resetHeld = false)
    (hm : (s.context m).through = none) : Rests s (s.answerSync m) := by
  obtain ⟨hother, hidle, -⟩ := s.answerSync_spec m
  exact .of_answered hdone hm (by simp) hother hidle (by simp) (by simp) (by simp) (by simp) (by simp) (by simp) hawake
    (State.answerSync_testsMade m)

theorem rests_answerHaltTerms {s : State} {m : MasterId} (hdone : s.ArbiterDone) (hawake : s.resetHeld = false)
    (hm : (s.context m).through = none) : Rests s (s.answerHaltTerms m) :=
  .of_answered hdone hm (by simp) (fun n hn => by rw [State.answerHaltTerms_context, if_neg hn])
    (by rw [State.answerHaltTerms_context, if_pos rfl]) (by simp) (by simp) (by simp) (by simp) (by simp) (by simp) hawake
    (State.answerHaltTerms_testsMade m)

theorem rests_enterHold {s : State} {m : MasterId} {c : Context} (hdone : s.ArbiterDone) (hawake : s.resetHeld = false)
    (hidle : s.context m = .idle) (hline : c.heldLine ≠ none) (hc : Context.awaitsArea c = false) :
    Rests s ((s.setContext m c).enterHold m) :=
  ⟨State.enterHold_arbiterDone hdone hline hidle, State.heldEmpty_of_awake (by simpa using hawake), fun _ ha h =>
    State.enterHold_testsMade hidle hc hline ha h⟩

theorem State.markThrough_context (s : State) (m n : MasterId) : (s.markThrough m).context n = s.context n := by
  unfold State.markThrough
  split
  · rfl
  · by_cases hn : n = m
    · subst hn; simp [State.context]
    · simp [hn]

theorem State.markThrough_quieter (s : State) (m : MasterId) : Quieter s (s.markThrough m) :=
  .of_same (by simp) (fun n => .inl (s.markThrough_context m n)) (by simp) (by simp) (by simp) (by simp) fun h => by
    simpa [State.canAccept] using h

theorem rests_takeThrough {s : State} {m : MasterId} (line : Line) (mask : Mask) (data : LineData) (hdone : s.ArbiterDone)
    (hawake : s.resetHeld = false) (hidle : s.context m = .idle) : Rests s (s.takeThrough m line mask data) := by
  refine ⟨?_, State.heldEmpty_of_awake (by simpa using hawake), fun _ ha h => State.takeThrough_testsMade m line mask data hidle ha h⟩
  have hmarked := (s.markThrough_quieter m).arbiterDone hdone
  have hidle' : (s.markThrough m).context m = .idle := (s.markThrough_context m m).trans hidle
  unfold State.takeThrough
  dsimp only
  split
  · refine Quieter.arbiterDone (s := s.markThrough m) (.of_same rfl (fun n => .inl ?_) rfl (List.Subset.refl _) rfl rfl id) hmarked
    rw [State.answer_context]
    split
    · next hn => rw [hn, hidle']
    · rfl
  · exact State.enterHold_arbiterDone hmarked (by simp [Context.heldLine]) hidle'

theorem rests_decideWrite {s : State} (hs : s.Settled) (hawake : s.resetHeld = false) {m : MasterId} (hidle : s.context m = .idle)
    (w : WriteReq) : Rests s (s.decideWrite m w) := by
  obtain ⟨hdone, hjoins, -⟩ := id hs
  unfold State.decideWrite
  split
  · exact (Rests.refl hs).of_same
  · split
    · next a hjoin =>
      split
      · exact (Rests.refl hs).of_same
      · next hhalted =>
        exact .arbitrate (by simpa using hawake) fun _ _ h => State.decideJoined_testsMade hjoins hidle hjoin hhalted h
    · exact rests_takeThrough w.line w.mask w.data hdone hawake hidle

theorem rests_decideRead {s : State} (hs : s.Settled) (hawake : s.resetHeld = false) {m : MasterId} (hidle : s.context m = .idle)
    (line : Line) (mask : Mask) : Rests s (s.decideRead m line mask) := by
  have hsent (body : AnswerBody) : Rests s (s.send m body) := (Rests.refl hs).of_same
  unfold State.decideRead
  split
  · exact hsent _
  · split
    · exact hsent _
    · split
      · exact hsent _
      · exact rests_enterHold hs.left hawake hidle (by simp [Context.heldLine]) rfl

theorem rests_decideSync {s : State} (hs : s.Settled) (hawake : s.resetHeld = false) {m : MasterId} (hidle : s.context m = .idle) :
    Rests s (s.decideSync m) := by
  obtain ⟨hdone, hjoins, -⟩ := id hs
  have hthrough : (s.context m).through = none := by simp [hidle, Context.through]
  have hwait {a : AreaId} (hm : (s.area a).master = some m) :
      Rests s (if (s.area a).queue.isEmpty then s.answerSync m else s.waitSync m) := by
    split
    · exact rests_answerSync hdone hawake hthrough
    · next hq =>
      refine ⟨State.arbitrate_done _, State.heldEmpty_of_awake (by simpa [State.waitSync] using hawake), fun hord _ h => ?_⟩
      exact State.waitSync_testsMade hjoins hord hidle h hm (by simpa using hq)
  obtain ⟨hjoined, hdetaching, -⟩ := hjoins
  unfold State.decideSync
  split
  · next a hjoin =>
    split
    · exact rests_answerHaltTerms hdone hawake hthrough
    · exact hwait (hjoined m a hjoin).right.left
  · next a _ hdetach => exact hwait (hdetaching m a hdetach).left
  · exact rests_answerSync hdone hawake hthrough

end Sys2Proof.Machine
end

section
/-! The commands of the memory port, of the bridge itself and of the management port leave nothing undone, and so does every step (R65;
log 2). -/

namespace Sys2Proof.Machine

/-! ## The memory port and the passing of time -/

theorem joinsAgree_moves {s t : State} (h : s.JoinsAgree) {X : Option TagUser} (hm : Moves X s t) : t.JoinsAgree :=
  Moves.keeps (joinsMove X) hm h

theorem rests_arbiterGrant {s : State} (hs : s.Settled) : Rests s (s.grantOnce.getD s) := by
  have hnone : s.grantOnce = none := by
    cases hacc : s.canAccept with
    | false => exact State.grantOnce_eq_none (.inl hacc)
    | true => exact State.grantOnce_eq_none (.inr (hs.left hacc))
  rw [hnone]
  exact .refl hs

/-- The completion of a tag that is BUSY, STALE or FREE (R78, R86). -/
theorem rests_takeCompletion {s : State} (hs : s.Settled) (hawake : s.resetHeld = false) (t : TagId) (result : MemResult)
    (data : LineData) : Rests s (s.takeCompletion t result data) := by
  obtain ⟨hdone, hjoins, -⟩ := id hs
  unfold State.takeCompletion
  split
  · next tr htag =>
    have hjoins' : (s.setTag t .free).JoinsAgree := joinsAgree_of_eq (s := s) rfl rfl hjoins
    refine ⟨State.arbitrate_done _, State.heldEmpty_of_awake (by simpa using hawake), fun _ _ h => ?_⟩
    have hwait : AreasWait (s.setTag t .free) :=
      areasWait_of (s := s) ⟨h.left, h.right.left⟩ (fun _ => rfl) (fun _ => ⟨rfl, rfl⟩) (.of_eq fun _ => rfl)
    exact State.conclude_testsMade joinsMove (joinsAgree_moves hjoins' (State.handResult_moves _ _ _ _))
      (State.handResult_areasWait joinsMove hjoins' hwait _ _ _) _
  · next entry htag =>
    refine .arbitrate (by simpa using hawake) fun _ _ h => ?_
    refine testsMade_of h (fun _ => rfl) (fun _ => ⟨rfl, rfl⟩) (fun _ => .inl rfl) (fun p hp hr => ⟨p, hp, hr, rfl⟩)
      (fun u tr hu => ?_) rfl
    have hne : u ≠ t := by rintro rfl; simp [htag] at hu
    simpa [hne] using hu
  · exact .refl hs

theorem rests_runOut {s : State} (hs : s.Settled) (hawake : s.resetHeld = false) (t : TagId) : Rests s (s.runOut t) := by
  obtain ⟨-, hjoins, -⟩ := id hs
  unfold State.runOut
  split
  · refine ⟨State.arbitrate_done _, State.heldEmpty_of_awake ?_, fun _ _ h => ?_⟩
    · rw [State.expireTag_resetHeld, State.reach_resetHeld, hawake]
    · obtain ⟨hjoins', htests⟩ := JoinedAndTested.reach joinsMove _ ⟨hjoins, h⟩
      exact (State.expireTag_testsMade joinsMove hjoins' htests).right
  · exact .refl hs
  · exact .refl hs

theorem rests_endLinger {s : State} (hs : s.Settled) (hawake : s.resetHeld = false) (a : AreaId) : Rests s (s.endLinger a) := by
  obtain ⟨-, hjoins, -⟩ := id hs
  unfold State.endLinger
  split
  · refine .arbitrate ((State.reach_resetHeld _ _).trans hawake) fun _ _ h => ?_
    exact (JoinedAndTested.reach joinsMove _ ⟨hjoins, h⟩).right
  · exact .refl hs

theorem State.arbiterDone_of_held {s : State} (h : s.resetHeld = true) : s.ArbiterDone := fun hacc => by
  simp [State.canAccept, h] at hacc

/-- A microsecond without a command; under RESET# it moves the clock alone (R143). -/
theorem rests_tick {s : State} (hs : s.Settled) : Rests s s.tick := by
  obtain ⟨-, hjoins, hheld⟩ := id hs
  cases hreset : s.resetHeld with
  | true =>
    have htick : s.tick = { s with now := s.now + 1 } := by rw [State.tick, if_pos hreset]
    rw [htick]
    exact ⟨State.arbiterDone_of_held hreset, hheld, fun _ _ h => testsMade_of_same h rfl rfl rfl rfl rfl⟩
  | false =>
    have htick : s.tick = s.moveOn.expireDue.arbitrate := by rw [State.tick, if_neg (by simp [hreset])]
    refine ⟨htick ▸ State.arbitrate_done _, State.heldEmpty_of_awake (s.tick_resetHeld.trans hreset), fun _ _ h => ?_⟩
    exact (JoinedAndTested.tick joinsMove ⟨hjoins, h⟩).right

/-- The ready line is an input that RESET# does not stop; under it the arbiter cannot act (R143, R151). -/
theorem rests_memoryReady {s : State} (hs : s.Settled) (level : Ready) : Rests s ({ s with memoryReady := level } : State).arbitrate := by
  refine ⟨State.arbitrate_done _, fun hheld => ?_, fun _ _ h => State.arbitrate_testsMade (testsMade_of_same h rfl rfl rfl rfl rfl)⟩
  have hreset : s.resetHeld = true := by simpa using hheld
  rw [State.arbitrate_of_not_canAccept (by simp [State.canAccept, hreset])]
  exact hs.right.right hreset

/-! ## The bridge's own tests as commands -/

theorem rests_holdRelease {s : State} (hawake : s.resetHeld = false) (m : MasterId) : Rests s (s.releaseOne m).arbitrate := by
  refine .arbitrate hawake fun _ _ h => ?_
  refine testsMade_of h (fun _ => rfl) (fun _ => ⟨rfl, rfl⟩) (fun _ => .inl rfl) (fun p hp hr => ?_) (fun _ _ hu => hu) rfl
  obtain ⟨p', hp', rfl⟩ := List.mem_map.mp hp
  split at hr
  · cases hr
  · next hkept => exact ⟨p', hp', hr, by rw [if_neg hkept]⟩

theorem rests_completeSync {s : State} (hs : s.Settled) (hawake : s.resetHeld = false) (m : MasterId) : Rests s (s.completeSync m) := by
  have hanswer {mark : Nat} (hc : s.context m = .syncWait mark) : Rests s (s.answerSync m) :=
    rests_answerSync hs.left hawake (by simp [hc, Context.through])
  unfold State.completeSync
  split
  · next hc _ =>
    split
    · exact .refl hs
    · exact hanswer hc
  · next hc _ => exact hanswer hc
  · exact .refl hs

/-- The end of a long operation makes no head urgent. -/
theorem Quieter.endOperation {s : State} {a : AreaId} {op : Option LongOp} (hop : op ≠ none → (s.area a).pendingOp ≠ none)
    (o : LastOutcome) (e : Event) : Quieter s ((s.setArea a { s.area a with pendingOp := op, lastOutcome := o }).raise e) where
  accepts := id
  tags := rfl
  mode := rfl
  now := rfl
  hold := List.Subset.refl _
  contexts _ := .inl rfl
  queue b := by
    by_cases hb : b = a
    · subst hb; simp
    · simp [hb]
  area b _ := by
    by_cases hb : b = a
    · subst hb; simpa using hop
    · simp [hb]

theorem rests_endDrainNow {s : State} (hs : s.Settled) (hawake : s.resetHeld = false) (a : AreaId) : Rests s (s.endDrainNow a) := by
  have hends (op : Option LongOp) (o : LastOutcome) (e : Event) (hpend : (s.area a).pendingOp ≠ none) {t : State}
      (ht : t = (s.setArea a { s.area a with pendingOp := op, lastOutcome := o }).raise e)
      (htests : s.TestsMade → t.TestsMade) : Rests s t := by
    subst ht
    exact .of_quieter hs.left (.endOperation (fun _ => hpend) o e) hawake fun _ _ => htests
  unfold State.endDrainNow
  split
  · next hhalted =>
    have htests : s.TestsMade → (s.cutDrain a).TestsMade := fun h => by rwa [(h.left a).cutDrain_eq hhalted]
    revert htests
    unfold State.cutDrain
    split
    · next hop => exact hends _ _ _ (by simp [hop]) rfl
    all_goals exact fun _ => .refl hs
  · have htests : s.TestsMade → (s.endDrain a).TestsMade := fun h => by rwa [(h.left a).endDrain_eq]
    revert htests
    unfold State.endDrain
    split
    · next hop =>
      split
      · exact fun _ => .refl hs
      · exact hends _ _ _ (by simp [hop]) rfl
    all_goals exact fun _ => .refl hs

theorem rests_testSoftReset {s t : State} (hawake : t.resetHeld = false) (ht : s.TestsMade → t = s) : Rests s t.testSoftReset.arbitrate :=
  .arbitrate (by simpa using hawake) fun _ _ h => by rwa [ht h, h.right.right.right.testSoftReset_eq]

end Sys2Proof.Machine
end

section
/-! Settling O60: the management commands, and the step. -/

namespace Sys2Proof.Machine

/-! ## Settings and joins -/

/-- A change of an area's record that keeps what its waiters wait for, in RUNNING mode. -/
theorem State.setArea_testsMade_of_waits {s : State} {a : AreaId} {r : AreaRec} (h : s.TestsMade) (hmode : s.mode = .running)
    (hstate : r.state = (s.area a).state) (hmaster : r.master = (s.area a).master) (hop : r.pendingOp = (s.area a).pendingOp)
    (hsize : r.size = (s.area a).size) (hqueue : r.queue = (s.area a).queue) : (s.setArea a r).TestsMade :=
  State.setArea_testsMade h hmode hqueue (fun hj => hstate.trans hj)
    (areaWaits_of (h.left a) (by simpa using hstate) (by simpa using hmaster) (by simpa using hop) (by simpa using hsize)
      (.of_queue (by simpa using hqueue)) (.of_eq fun _ => by simp))

/-- SET POOL on twelve FREE areas: no size is waited for (R2, R27). -/
theorem rests_setSizes {s : State} (hs : s.Settled) (hawake : s.resetHeld = false) (hfree : ∀ a, (s.area a).state = .free)
    (sizes : Vector Byte 12) : Rests s (s.setSizes sizes) := by
  have harea := s.setSizes_area sizes
  have hquiet : Quieter s (s.setSizes sizes) :=
    { accepts := id, tags := rfl, mode := rfl, now := rfl, hold := List.Subset.refl _, contexts := fun _ => .inl rfl
      queue := fun a => by rw [harea]
      area := fun a _ => by rw [harea]; exact ⟨rfl, rfl, rfl, rfl, id⟩ }
  refine .of_quieter hs.left hquiet hawake fun _ _ ⟨hwait, hjoined, hholds, hshut⟩ => ?_
  refine ⟨fun a => ?_, waitersJoined_of hjoined (fun _ => ⟨rfl, rfl⟩) (fun a hj => by rwa [harea]) (.of_eq fun _ => rfl),
    holdsWait_of hholds (fun p hp hr => ⟨p, hp, hr, rfl⟩) (fun _ => .inl rfl) (fun a e he => ⟨e, by rwa [harea], rfl, rfl⟩) fun _ _ hu => hu,
    shutdownWaits_of hshut rfl (fun a => by rw [harea]) fun _ _ hu => hu⟩
  obtain ⟨-, hrest⟩ := hwait a
  unfold State.AreaWaits
  rw [harea a]
  exact ⟨fun m w hj => absurd ((hfree a).symm.trans hj) nofun, hrest⟩

/-- JOIN: neither the FREE area nor the master without a join has a waiter (R14). -/
theorem rests_joinMaster {s : State} (hs : s.Settled) (hawake : s.resetHeld = false) (hmode : s.mode = .running) {a : AreaId}
    {m : MasterId} (hfree : (s.area a).state = .free) (hjoined : (s.master m).joinedArea = none)
    (hdetach : (s.master m).detachingArea = none) : Rests s (s.joinMaster a m) := by
  obtain ⟨hdone, ⟨-, -, -, -, hempty⟩, -⟩ := hs
  obtain ⟨-, hqueue⟩ := hempty a hfree
  have harea (b : AreaId) (hb : b ≠ a) : (s.joinMaster a m).area b = s.area b := by rw [State.joinMaster_area, if_neg hb]
  have hareaSelf := (s.joinMaster_area a a m).trans (if_pos rfl)
  have hqueues (b : AreaId) : ((s.joinMaster a m).area b).queue = (s.area b).queue := by
    rw [State.joinMaster_area]
    split
    · next hb => rw [hb]
    · rfl
  have hctx (n : MasterId) : (s.joinMaster a m).context n = s.context n := by
    simp only [State.context, State.joinMaster_master]
    split
    · next hn => rw [hn]
    · rfl
  refine .of_quieter hdone ?_ hawake fun _ _ ⟨hwait, ⟨hpost, hsync⟩, hholds, hshut⟩ => ?_
  · refine { accepts := id, tags := rfl, mode := rfl, now := rfl, hold := List.Subset.refl _, contexts := fun n => .inl (hctx n)
             queue := hqueues, area := fun b hb => ?_ }
    rw [harea b (by rintro rfl; exact hb hqueue)]
    exact ⟨rfl, rfl, rfl, rfl, id⟩
  · have hnoPost (w : WriteReq) : s.context m ≠ .postingWait w := fun hc => by
      obtain ⟨b, hb, -⟩ := hpost m w hc
      simp [hjoined] at hb
    have hnoSync (mark : Nat) : s.context m ≠ .syncWait mark := fun hc => by
      obtain ⟨b, hb⟩ := hsync m mark hc
      simp [hjoined, hdetach] at hb
    have hmaster (n : MasterId) (hn : n ≠ m) : (s.joinMaster a m).master n = s.master n := by rw [State.joinMaster_master, if_neg hn]
    refine ⟨fun b => ?_, ⟨fun n w hc => ?_, fun n mark hc => ?_⟩, ?_, fun hm => absurd (hm.symm.trans hmode) nofun⟩
    · by_cases hb : b = a
      · subst hb
        obtain ⟨-, -, hdrain, hpurge, -⟩ := hwait b
        unfold State.AreaWaits
        rw [hareaSelf]
        refine ⟨fun n w _ hn hc => ?_, fun n mark hn hc => ?_, fun mark hop => ⟨nofun, (hdrain mark hop).right⟩, hpurge, nofun⟩
        · obtain rfl := Option.some.inj hn
          exact absurd ((hctx m).symm.trans hc) (hnoPost w)
        · obtain rfl := Option.some.inj hn
          exact absurd ((hctx m).symm.trans hc) (hnoSync mark)
      · exact areaWaits_of_area (hwait b) (harea b hb) (.of_eq hctx)
    · rw [hctx] at hc
      have hn : n ≠ m := by rintro rfl; exact hnoPost w hc
      obtain ⟨b, hj, hstate⟩ := hpost n w hc
      exact ⟨b, by rw [hmaster n hn, hj], by rw [harea b (by rintro rfl; simp [hfree] at hstate), hstate]⟩
    · rw [hctx] at hc
      have hn : n ≠ m := by rintro rfl; exact hnoSync mark hc
      rw [hmaster n hn]
      exact hsync n mark hc
    · exact holdsWait_of hholds (fun p hp hr => ⟨p, hp, hr, rfl⟩) (fun n => .inl (hctx n))
        (fun b e he => ⟨e, by rwa [hqueues], rfl, rfl⟩) fun _ _ hu => hu

/-- UNJOIN, PURGE and SOFT RESET end as every change does (R148). -/
theorem rests_conclude {s t : State} (hawake : t.resetHeld = false) (hjoins : t.JoinsAgree) (h : AreasWait s → AreasWait t) (n : Nat) :
    Rests s (t.conclude n) :=
  ⟨State.arbitrate_done _, State.heldEmpty_of_awake (by simpa using hawake), fun _ _ ⟨hwait, hjoined, _⟩ =>
    State.conclude_testsMade joinsMove hjoins (h ⟨hwait, hjoined⟩) n⟩

theorem Rests.accepted {s t : State} (h : Rests s t) : Rests s t.accepted.state := h

/-! ## Halted areas and long operations -/

/-- RESUME: the area's master has no write waiting for a slot, for one waits for a JOINED area alone (R27, R111). -/
theorem rests_resume {s : State} (hs : s.Settled) (hawake : s.resetHeld = false) (hmode : s.mode = .running) {a : AreaId}
    (hhalted : (s.area a).state = .halted) : Rests s (s.setArea a { s.area a with state := .joined }).arbitrate := by
  obtain ⟨-, ⟨-, -, hhas, -⟩, -⟩ := hs
  refine .arbitrate (by simpa using hawake) fun _ _ h => State.setArea_testsMade h hmode rfl (fun _ => rfl) ?_
  obtain ⟨hwait, ⟨hpost, -⟩, -⟩ := h
  obtain ⟨-, hsync, hdrain, hpurge, -⟩ := hwait a
  simp only [State.AreaWaits, State.setArea_area, State.setArea_context, if_pos]
  refine ⟨fun m w _ hm hc => ?_, hsync, fun mark hop => ⟨nofun, (hdrain mark hop).right⟩, hpurge, nofun⟩
  obtain ⟨b, hj, hstate⟩ := hpost m w hc
  obtain ⟨n, hn, hna⟩ := hhas a (.inr hhalted)
  obtain rfl := Option.some.inj (hm.symm.trans hn)
  obtain rfl := Option.some.inj (hj.symm.trans hna)
  simp [hhalted] at hstate

theorem State.setArea_setArea (s : State) (a : AreaId) (r r' : AreaRec) : (s.setArea a r).setArea a r' = s.setArea a r' := by
  simp [State.setArea]

/-- DRAIN: its mark lies behind every live entry, so it waits unless the queue is empty (R129, R130). -/
theorem rests_drain {s : State} (hawake : s.resetHeld = false) (hmode : s.mode = .running) {a : AreaId}
    (hhalted : (s.area a).state ≠ .halted) :
    Rests s (((s.setArea a { s.area a with pendingOp := some (.drain s.nextPlace) }).endDrain a).arbitrate) := by
  refine .arbitrate (by simpa using hawake) fun _ _ h => ?_
  obtain ⟨hslot, hsync, -, -, hdetach⟩ := h.left a
  have harea : (s.setArea a { s.area a with pendingOp := some (.drain s.nextPlace) }).area a =
      { s.area a with pendingOp := some (.drain s.nextPlace) } := by simp
  unfold State.endDrain
  rw [harea]
  dsimp only
  split
  · next hbefore =>
    obtain hexists := (AreaRec.holdsBefore_iff _ _).mp hbefore
    refine State.setArea_testsMade h hmode rfl (fun hj => hj) ?_
    simp only [State.AreaWaits, State.setArea_area, State.setArea_context, if_pos]
    refine ⟨hslot, hsync, fun mark hop => ⟨hhalted, ?_⟩, nofun, hdetach⟩
    obtain rfl := LongOp.drain.inj (Option.some.inj hop)
    exact hexists
  · rw [State.setArea_setArea]
    refine testsMade_of_same (s := s.setArea a _) (u := State.raise _ _) (State.setArea_testsMade h hmode ?_ ?_ ?_) rfl rfl rfl rfl rfl
    · rfl
    · exact fun hj => hj
    · simp only [State.AreaWaits, State.setArea_area, State.setArea_context, if_pos]
      have hnone {o : LongOp} (ho : AreaRec.opAfter { s.area a with pendingOp := some (.drain s.nextPlace) } = some o) :
          o = .detach := by
        unfold AreaRec.opAfter at ho
        split at ho
        · exact (Option.some.inj ho).symm
        · cases ho
      exact ⟨hslot, hsync, fun mark hop => absurd (hnone hop) nofun, fun mark hop => absurd (hnone hop) nofun, hdetach⟩

theorem State.detachArea_endDetach_joins {s : State} {a : AreaId} (hjoins : s.JoinsAgree) (h : (s.area a).state = .joined) :
    ((s.detachArea a).endDetach a).JoinsAgree :=
  joinsAgree_moves hjoins ((State.detachArea_moves h).trans (State.endDetach_moves _ a))

theorem State.beginPurge_settleArea_joins {s : State} (hjoins : s.JoinsAgree) (a : AreaId) : ((s.beginPurge a).settleArea a).JoinsAgree :=
  joinsAgree_moves hjoins ((State.beginPurge_moves s a).trans (State.settleArea_moves _ a))

theorem State.beginShutdown_resetHeld (s : State) : s.beginShutdown.resetHeld = s.resetHeld :=
  foldl_keeps (P := fun u : State => u.resetHeld = s.resetHeld) State.shutArea allAreas { s with mode := .shutdown } rfl
    fun u a _ hu => by simpa using hu

theorem rests_recoverTags {s : State} (hawake : s.resetHeld = false) : Rests s s.freeStale.arbitrate := by
  refine .arbitrate (by simpa using hawake) fun _ _ h => ?_
  refine testsMade_of h (fun _ => rfl) (fun _ => ⟨rfl, rfl⟩) (fun _ => .inl rfl) (fun p hp hr => ⟨p, hp, hr, rfl⟩) (fun t tr hu => ?_) rfl
  rw [State.freeStale_tag, hu]
  rfl

/-! ## The commands with checks of their own -/

section
variable {s t : State}

theorem execUnknownKindRequest_rests (hs : s.Settled) (m : MasterId) (kind : BitVec 2) (h : execUnknownKindRequest m kind s = .next t) :
    Rests s t := by
  refine .next h ?_
  split
  · exact (Rests.refl hs).of_same
  · exact .refl hs

theorem execSelectAssertion_rests (hs : s.Settled) (h : execSelectAssertion s = .next t) : Rests s t := by
  refine .next h ?_
  split <;> exact (Rests.refl hs).of_same

theorem execGetArea_rests (hs : s.Settled) (area : Byte) (h : execGetArea area s = .next t) : Rests s t := by
  refine Rests.next h (.command hs fun _ => by split <;> exact .refl hs)

theorem execGetMaster_rests (hs : s.Settled) (master : Byte) (h : execGetMaster master s = .next t) : Rests s t := by
  refine Rests.next h (.command hs fun _ => by split <;> exact .refl hs)

theorem execPeekFault_rests (hs : s.Settled) (h : execPeekFault s = .next t) : Rests s t := by
  refine Rests.next h (.command hs fun _ => by split <;> exact .refl hs)

theorem execReadFault_rests (hs : s.Settled) (h : execReadFault s = .next t) : Rests s t := by
  refine Rests.next h (.command hs fun _ => by split <;> exact .refl hs)

theorem execFaultRecordRemoval_rests (hs : s.Settled) (h : execFaultRecordRemoval s = .next t) : Rests s t := by
  refine Rests.next h (.unlessReset hs fun _ => ?_)
  split
  · exact (Rests.refl hs).of_same
  all_goals exact .refl hs

theorem execSetPool_rests (hs : s.Settled) (sizes : Vector Byte 12) (h : execSetPool sizes s = .next t) : Rests s t := by
  refine Rests.next h (.runningCommand hs fun hawake _ => ?_)
  split
  · next hfree =>
    split
    · have hall : ∀ a, (s.area a).state = .free := by simpa using (Bool.and_eq_true_iff.mp hfree).left
      exact rests_setSizes hs hawake hall sizes
    · exact .refl hs
  · exact .refl hs

theorem execSetArea_rests (hs : s.Settled) (area policy escalate retry linger highWater merge : Byte)
    (h : execSetArea area policy escalate retry linger highWater merge s = .next t) : Rests s t := by
  refine Rests.next h (.runningCommand hs fun hawake hmode => ?_)
  split
  · split
    · exact .arbitrate (by simpa using hawake) fun _ _ h => State.setArea_testsMade_of_waits h hmode rfl rfl rfl rfl rfl
    · exact .refl hs
  · exact .refl hs

theorem execSetGlobal_rests (hs : s.Settled) (timeout : BitVec 16) (arbitration overflowEscalates : Byte) (alertMask : BitVec 16)
    (h : execSetGlobal timeout arbitration overflowEscalates alertMask s = .next t) : Rests s t := by
  refine Rests.next h (.runningCommand hs fun _ _ => ?_)
  split
  · split
    · exact (Rests.refl hs).of_same
    · exact .refl hs
  · exact .refl hs

theorem execClearMaster_rests (hs : s.Settled) (master : Byte) (h : execClearMaster master s = .next t) : Rests s t := by
  refine Rests.next h (.runningCommand hs fun hawake _ => ?_)
  split
  · next m _ =>
    have hctx (n : MasterId) :
        (s.setMaster m { s.master m with pendingCount := 0, firstFault := none, throughSeen := false }).context n = s.context n := by
      by_cases hn : n = m
      · subst hn; simp [State.context]
      · simp [State.context, hn]
    refine .of_quieter hs.left (.of_same rfl (fun n => .inl (hctx n)) rfl (List.Subset.refl _) rfl rfl id) hawake fun _ _ h => ?_
    refine testsMade_of h (fun _ => rfl) (fun n => ?_) (fun n => .inl (hctx n)) (fun p hp hr => ⟨p, hp, hr, rfl⟩) (fun _ _ hu => hu) rfl
    by_cases hn : n = m
    · subst hn; simp [State.done]
    · simp [State.done, hn]
  · exact .refl hs

theorem execJoin_rests (hs : s.Settled) (area master : Byte) (h : execJoin area master s = .next t) : Rests s t := by
  refine Rests.next h (.runningCommand hs fun hawake hmode => ?_)
  split
  · next a m _ _ =>
    split
    · exact .refl hs
    · next hfree =>
      split
      · exact .refl hs
      · split
        · exact .refl hs
        · next hnone =>
          rw [not_or, not_not, not_not] at hnone
          exact rests_joinMaster hs hawake hmode (not_not.mp hfree) hnone.left hnone.right
  · exact .refl hs

theorem execUnjoin_rests (hs : s.Settled) (area : Byte) (h : execUnjoin area s = .next t) : Rests s t := by
  refine Rests.next h (.runningCommand hs fun hawake _ => ?_)
  split
  · next a _ =>
    split
    · exact .refl hs
    · next hstate =>
      split
      · exact .refl hs
      · have hj := not_not.mp hstate
        exact .accepted (rests_conclude (by simpa using hawake) (State.detachArea_endDetach_joins hs.right.left hj)
          (fun hw => State.detachArea_areasWait joinsMove hs.right.left hw hj) _)
  · exact .refl hs

theorem execResume_rests (hs : s.Settled) (area : Byte) (h : execResume area s = .next t) : Rests s t := by
  refine Rests.next h (.runningCommand hs fun hawake hmode => ?_)
  split
  · split
    · exact .refl hs
    · next hstate =>
      split
      · exact .refl hs
      · exact rests_resume hs hawake hmode (not_not.mp hstate)
  · exact .refl hs

theorem execPurge_rests (hs : s.Settled) (area : Byte) (h : execPurge area s = .next t) : Rests s t := by
  refine Rests.next h (.runningCommand hs fun hawake _ => ?_)
  split
  · next a _ =>
    split
    · exact .refl hs
    · split
      · exact .refl hs
      · exact .accepted (rests_conclude (by simpa using hawake) (State.beginPurge_settleArea_joins hs.right.left a)
          (fun hw => State.beginPurge_areasWait joinsMove hs.right.left hw) _)
  · exact .refl hs

theorem execDrain_rests (hs : s.Settled) (area : Byte) (h : execDrain area s = .next t) : Rests s t := by
  refine Rests.next h (.runningCommand hs fun hawake hmode => ?_)
  split
  · split
    · exact .refl hs
    · next hstate =>
      split
      · exact .refl hs
      · exact .accepted (rests_drain hawake hmode (not_or.mp hstate).right)
  · exact .refl hs

theorem execSoftReset_rests (hs : s.Settled) (h : execSoftReset s = .next t) : Rests s t := by
  refine Rests.next h (.runningCommand hs fun hawake _ => ?_)
  exact .accepted (rests_conclude (s.beginShutdown_resetHeld.trans hawake) (joinsAgree_moves hs.right.left s.beginShutdown_moves)
    (fun hw => (State.beginShutdown_areasWait joinsMove hs.right.left hw).right) _)

end

/-! ## Every command -/

theorem rests_of_reset {s t : State} (hareas : t.areas = State.reset.areas) (hmasters : t.masters = State.reset.masters)
    (htags : t.tags = State.reset.tags) (hhold : t.holdList = []) (hmode : t.mode = .running) : Rests s t := by
  have hqueue := queue_of_reset hareas
  exact ⟨arbiterDone_of_empty hhold hqueue, fun _ => ⟨hhold, hqueue⟩, fun _ _ _ =>
    testsMade_of_same testsMade_reset hareas hmasters hhold htags hmode⟩

/-- RESET_RELEASE: what was held in reset is empty (R143). -/
theorem rests_resetRelease {s : State} (hs : s.Settled) (straps : BitVec 2) : Rests s { s with straps := straps, resetHeld := false } := by
  obtain ⟨hdone, -, hheld⟩ := hs
  cases hreset : s.resetHeld with
  | false =>
    have hsame : ({ s with straps := straps, resetHeld := false } : State) = { s with straps := straps } := by rw [← hreset]
    rw [hsame]
    exact ⟨hdone, hheld, fun _ _ h => testsMade_of_same h rfl rfl rfl rfl rfl⟩
  | true =>
    obtain ⟨hhold, hqueue⟩ := hheld hreset
    exact ⟨arbiterDone_of_empty hhold hqueue, State.heldEmpty_of_awake rfl, fun _ _ h => testsMade_of_same h rfl rfl rfl rfl rfl⟩

theorem exec_rests {s t : State} {c : Instr} (hs : s.Settled) (h : exec c s = .next t) : Rests s t := by
  have report {n : Nat} {k : State → Taken} (hk : (k s).state = s) : Rests s (s.command n k) :=
    .command hs fun _ => by rw [hk]; exact .refl hs
  cases c with
  | write => exact .next h (.takeRequest hs fun hawake hidle => rests_decideWrite hs hawake hidle _)
  | read => exact .next h (.takeRequest hs fun hawake hidle => rests_decideRead hs hawake hidle _ _)
  | sync => exact .next h (.takeRequest hs fun hawake hidle => rests_decideSync hs hawake hidle)
  | unknownKindRequest m kind => exact execUnknownKindRequest_rests hs m kind h
  | answerDelivery => exact .next h (.unlessReset hs fun _ => (Rests.refl hs).of_same)
  | arbiterGrant => exact .next h (.unlessReset hs fun _ => rests_arbiterGrant hs)
  | memoryReady level => exact .next h (rests_memoryReady hs level)
  | completion t result data => exact .next h (.unlessReset hs fun hawake => rests_takeCompletion hs hawake t _ data)
  | expiry t => exact .next h (.unlessReset hs fun hawake => rests_runOut hs hawake t)
  | lingerExpiry a => exact .next h (.unlessReset hs fun hawake => rests_endLinger hs hawake a)
  | postingWaitRetry a =>
    refine .next h (.unlessReset hs fun hawake => .arbitrate (by simpa using hawake) fun _ _ hw => ?_)
    rwa [(hw.left a).retryPosting_eq]
  | holdRelease m => exact .next h (.unlessReset hs fun hawake => rests_holdRelease hawake m)
  | syncCompletion m => exact .next h (.unlessReset hs fun hawake => rests_completeSync hs hawake m)
  | detachCompletion a =>
    exact .next h (.unlessReset hs fun hawake => rests_testSoftReset (by simpa using hawake) fun hw => (hw.left a).endDetach_eq)
  | purgeEnd a =>
    refine .next h (.unlessReset hs fun hawake => rests_testSoftReset (by simpa using hawake) fun hw => ?_)
    rw [(hw.left a).endPurge_eq, (hw.left a).endDetach_eq]
  | drainEnd a => exact .next h (.unlessReset hs fun hawake => rests_endDrainNow hs hawake a)
  | softResetEnd => exact .next h (.unlessReset hs fun hawake => rests_testSoftReset hawake fun _ => rfl)
  | identify | getStatus | readResetRecord | unknownCommand => exact .next h (report rfl)
  | getArea area => exact execGetArea_rests hs area h
  | getMaster master => exact execGetMaster_rests hs master h
  | peekFault => exact execPeekFault_rests hs h
  | readFault => exact execReadFault_rests hs h
  | clearResetRecord => exact .next h (.runningCommand hs fun _ _ => (Rests.refl hs).of_same)
  | faultRecordRemoval => exact execFaultRecordRemoval_rests hs h
  | setPool sizes => exact execSetPool_rests hs sizes h
  | setArea area policy escalate retry linger highWater merge =>
    exact execSetArea_rests hs area policy escalate retry linger highWater merge h
  | setGlobal timeout arbitration overflowEscalates alertMask =>
    exact execSetGlobal_rests hs timeout arbitration overflowEscalates alertMask h
  | ackEvents events => exact .next h (.command hs fun _ => (Rests.refl hs).of_same)
  | clearMaster master => exact execClearMaster_rests hs master h
  | recoverTags => exact .next h (.runningCommand hs fun hawake _ => rests_recoverTags hawake)
  | join area master => exact execJoin_rests hs area master h
  | unjoin area => exact execUnjoin_rests hs area h
  | resume area => exact execResume_rests hs area h
  | purge area => exact execPurge_rests hs area h
  | drain area => exact execDrain_rests hs area h
  | softReset => exact execSoftReset_rests hs h
  | selectAssertion => exact execSelectAssertion_rests hs h
  | selectRelease => exact .next h (Rests.refl hs).of_same
  | pinReset => exact .next h (.unlessReset hs fun _ => rests_of_reset rfl rfl rfl rfl rfl)
  | powerOn straps low => exact .next h (rests_of_reset rfl rfl rfl rfl rfl)
  | resetRelease straps => exact .next h (rests_resetRelease hs straps)

/-- The front of the queue leaves it, and nothing that the arbiter or the tests look at changes (log 1). -/
theorem State.Settled.popped {s : State} (hs : s.Settled) (rest : List Instr) : ({ s with pending := rest } : State).Settled := by
  obtain ⟨hdone, hjoins, hheld⟩ := hs
  exact ⟨Quieter.arbiterDone (.of_same rfl (fun _ => .inl rfl) rfl (List.Subset.refl _) rfl rfl id) hdone, hjoins, hheld⟩

/-- Settles O60: every command, and time, leaves nothing undone. -/
theorem arbiterDoneKept : Obligations.ArbiterDoneKept := by
  intro s s' hs hstep
  have hjoins : s'.JoinsAgree := joinsKept s s' hs.right.left hstep
  have hrests : Rests s s' := by
    unfold step at hstep
    split at hstep
    · next c rest _ =>
      obtain ⟨hdone, hheld, htests⟩ := exec_rests (hs.popped rest) hstep
      exact ⟨hdone, hheld, fun hq ha h => htests hq ha (testsMade_of_same h rfl rfl rfl rfl rfl)⟩
    · exact .next hstep (rests_tick hs)
  obtain ⟨hdone, hheld, htests⟩ := hrests
  exact ⟨⟨hdone, hjoins, hheld⟩, htests⟩

end Sys2Proof.Machine
end

section
/-! The fabric port's commands where they have an effect: WRITE (R22 to R36), READ (R42 to R46), SYNC (R91 to R95) and the delivery of
answers (R148). -/

namespace Sys2Proof.Machine

/-! ## Merging -/

theorem AreaRec.purgeCovers_eq_false_iff (r : AreaRec) (place : Nat) :
    r.purgeCovers place = false ↔ ∀ mark, r.pendingOp = some (.purge mark) → mark ≤ place := by
  unfold AreaRec.purgeCovers
  split
  · next mark hop => simp [hop]
  all_goals simp_all

/-- The merge target is the tail, under the conditions of R22 and R23. -/
theorem State.mergeTarget_eq_some_iff (s : State) (a : AreaId) (w : WriteReq) (e : Entry) :
    s.mergeTarget a w = some e ↔ (s.area a).queue.getLast? = some e ∧ w.strict = false ∧ (s.area a).merge = true ∧ e.isHeld = true ∧
      e.line = w.line ∧ e.strict = false ∧ s.newerElsewhere a w.line e.place = false ∧ s.throughAfter w.line e.place = false ∧
      (s.area a).purgeCovers e.place = false := by
  unfold State.mergeTarget
  cases hlast : (s.area a).queue.getLast? with
  | none => simp
  | some x =>
    simp only [Option.ite_none_right_eq_some, Bool.and_eq_true, Bool.not_eq_true', beq_iff_eq, Option.some.injEq]
    constructor
    · rintro ⟨hconds, rfl⟩
      tauto
    · rintro ⟨rfl, hconds⟩
      tauto

/-- Settles O11: each Boolean test of the merge says one condition of R22 or R23. -/
theorem mergeConditions : Obligations.MergeConditions := by
  intro s a w e
  have hlast : (s.area a).queue.getLast? = some e ↔ ∃ q, (s.area a).queue = q ++ [e] := List.getLast?_eq_some_iff
  have hnewer : s.newerElsewhere a w.line e.place = false ↔
      ∀ b, b ≠ a → ∀ x ∈ (s.area b).queue, x.line = w.line → x.place ≤ e.place := by
    rw [bool_eq_false_iff (s.newerElsewhere_iff a w.line e.place)]
    push Not
    rfl
  have hthrough : s.throughAfter w.line e.place = false ↔
      ∀ m r, (s.context m).through = some r → r.line = w.line → r.mark ≤ e.place := by
    rw [bool_eq_false_iff (s.throughAfter_iff w.line e.place)]
    push Not
    rfl
  rw [State.mergeTarget_eq_some_iff, hlast, Entry.isHeld_iff, hnewer, hthrough, AreaRec.purgeCovers_eq_false_iff]
  tauto

/-! ## WRITE of a joined master -/

theorem State.decideWrite_of_joined {s : State} {m : MasterId} {a : AreaId} {w : WriteReq} (hmask : w.mask ≠ 0)
    (hjoin : (s.master m).joinedArea = some a) (hstate : (s.area a).state ≠ .halted) :
    s.decideWrite m w = (s.decideJoined m a w).arbitrate := by
  rw [State.decideWrite, if_neg hmask, hjoin]
  exact if_neg hstate

theorem State.decideJoined_of_target {s : State} {m : MasterId} {a : AreaId} {w : WriteReq} {e : Entry}
    (htarget : s.mergeTarget a w = some e) : s.decideJoined m a w = (s.mergeTail a w e).answer m .okay := by
  rw [State.decideJoined, htarget]

theorem State.decideJoined_of_room {s : State} {m : MasterId} {a : AreaId} {w : WriteReq} (htarget : s.mergeTarget a w = none)
    (hroom : (s.area a).occupancy < (s.area a).size) : s.decideJoined m a w =
      if w.strict then (s.postEntry a w).setContext m (.strictWait s.nextPlace) else (s.postEntry a w).answer m .okay := by
  rw [State.decideJoined, htarget]
  exact if_pos hroom

theorem State.decideJoined_of_full {s : State} {m : MasterId} {a : AreaId} {w : WriteReq} (htarget : s.mergeTarget a w = none)
    (hfull : ¬ (s.area a).occupancy < (s.area a).size) : s.decideJoined m a w = s.setContext m (.postingWait w) := by
  rw [State.decideJoined, htarget]
  exact if_neg hfull

/-- A taken WRITE is decided on the bytes that its mask marks (R19). -/
theorem exec_write_of_taken {s : State} {m : MasterId} (htake : s.takesRequest m) (line : Line) (mask : Mask) (strict : Bool)
    (data : LineData) : exec (.write m line mask strict data) s =
      .next (s.decideWrite m { line := line, mask := mask, data := keepMarked mask data, strict := strict }) := by
  rw [exec_write, execWrite, State.takeRequest_of_takesRequest htake]

/-- Settles O12, by the three branches of the decision. -/
theorem joinedWriteDecided : Obligations.JoinedWriteDecided := by
  intro s m a line mask strict data htake hmask hjoin hstate w
  have hexec : exec (.write m line mask strict data) s = .next (s.decideJoined m a w).arbitrate := by
    rw [exec_write_of_taken htake]
    exact congrArg Host.Outcome.next (State.decideWrite_of_joined hmask hjoin (by simp [hstate]))
  refine ⟨fun q e htarget hqueue => ?merged, fun htarget hroom => ?posted, fun htarget hfull => ?full⟩
  case merged =>
    have hmerged : e.merged w = { e with
        mask := e.mask ||| mask
        data := Vector.ofFn fun i => if mask.getLsbD i then data[i] else e.data[i] } := by
      exact congrArg (fun d => { e with mask := e.mask ||| mask, data := d }) (overlay_keepMarked mask data e.data)
    rw [hexec, State.decideJoined_of_target htarget, State.mergeTail, hqueue, List.dropLast_concat, hmerged]
  case posted =>
    rw [hexec, State.decideJoined_of_room htarget hroom]
    rfl
  case full => rw [hexec, State.decideJoined_of_full htarget hfull]

/-! ## The entry into the Hold List -/

theorem State.enterHold_of_clear {s : State} {m : MasterId} (h : s.lineClear (s.context m) = true) : s.enterHold m = s.offeredBehind m :=
  if_pos h

theorem State.enterHold_of_not_clear {s : State} {m : MasterId} (h : s.lineClear (s.context m) = false) :
    s.enterHold m = s.heldBehind m :=
  if_neg (by simp [h])

theorem State.lineClear_readWait_iff (s : State) (r : ReadReq) : s.lineClear (.readWait r .inHold) = true ↔
    (∀ a, ∀ e ∈ (s.area a).queue, e.line ≠ r.line) ∧ ∀ t, ∀ tr ∈ (s.tag t).transaction, tr.request.line ≠ r.line := by
  simp only [State.lineClear, Bool.and_eq_true, Bool.not_eq_true', bool_eq_false_iff (s.lineLive_iff r.line),
    bool_eq_false_iff (s.lineBusy_iff r.line)]
  push Not
  rfl

theorem State.lineClear_throughWait_iff (s : State) (w : ThroughReq) : s.lineClear (.throughWait w .inHold) = true ↔
    (∀ a, ∀ e ∈ (s.area a).queue, e.line = w.line → w.mark ≤ e.place) ∧
      ∀ t, ∀ tr ∈ (s.tag t).transaction, tr.request.line ≠ w.line := by
  simp only [State.lineClear, Bool.and_eq_true, Bool.not_eq_true', bool_eq_false_iff (s.lineLiveBefore_iff w.line w.mark),
    bool_eq_false_iff (s.lineBusy_iff w.line)]
  push Not
  rfl

/-- A request enters by whether its line is clear (R36, R46); the entry of its context changes nothing of that. -/
theorem State.enterHold_setContext {s : State} {m : MasterId} {c : Context} {clear : Prop} (h : s.lineClear c = true ↔ clear) :
    (clear → (s.setContext m c).enterHold m = (s.setContext m c).offeredBehind m) ∧
      (¬ clear → (s.setContext m c).enterHold m = (s.setContext m c).heldBehind m) := by
  have hcontext : (s.setContext m c).context m = c := by simp
  have hsame : (s.setContext m c).lineClear c = s.lineClear c := by
    cases c with
    | readWait r st | throughWait r st => cases st <;> simp [State.lineClear, State.lineLive, State.lineLiveBefore, State.lineBusy]
    | _ => rfl
  refine ⟨fun hclear => State.enterHold_of_clear ?_, fun hclear => State.enterHold_of_not_clear ?_⟩
  · rw [hcontext, hsame, h]
    exact hclear
  · rw [hcontext, hsame]
    exact Bool.eq_false_iff.mpr fun hc => hclear (h.mp hc)

/-! ## WRITE of a master with no joined area -/

theorem State.markThrough_eq (s : State) (m : MasterId) : s.markThrough m = s.seenThrough m := rfl

theorem State.takeThrough_of_halted {s : State} {m : MasterId} {line : Line} (h : (s.markThrough m).lineHalted line = true) (mask : Mask)
    (data : LineData) : s.takeThrough m line mask data = (s.markThrough m).answer m (.error .halted) :=
  if_pos h

theorem State.takeThrough_of_not_halted {s : State} {m : MasterId} {line : Line} (h : (s.markThrough m).lineHalted line = false)
    (mask : Mask) (data : LineData) : s.takeThrough m line mask data =
      ((s.markThrough m).setContext m (.throughWait { line := line, mask := mask, data := data, mark := s.nextPlace } .inHold)).enterHold
        m := by
  have hmark : (s.markThrough m).nextPlace = s.nextPlace := by simp
  rw [← hmark]
  exact if_neg (by simp [h])

theorem State.decideWrite_of_unjoined {s : State} {m : MasterId} {w : WriteReq} (hmask : w.mask ≠ 0)
    (hjoin : (s.master m).joinedArea = none) : s.decideWrite m w = s.takeThrough m w.line w.mask w.data := by
  rw [State.decideWrite, if_neg hmask, hjoin]

/-- Settles O13: the mark of the through-seen flag touches neither entries nor tags. -/
theorem throughWriteDecided : Obligations.ThroughWriteDecided := by
  intro s m line mask strict data htake hmask hjoin u waiting halted clear
  have hexec : exec (.write m line mask strict data) s = .next (s.takeThrough m line mask (keepMarked mask data)) := by
    rw [exec_write_of_taken htake]
    exact congrArg Host.Outcome.next (State.decideWrite_of_unjoined hmask hjoin)
  have hhalted : (s.markThrough m).lineHalted line = true ↔ halted := by
    rw [State.lineHalted_iff]
    simp [halted]
  have hclear : (s.markThrough m).lineClear
      (.throughWait { line := line, mask := mask, data := keepMarked mask data, mark := s.nextPlace } .inHold) = true ↔ clear := by
    rw [State.lineClear_throughWait_iff]
    simp [clear]
  obtain ⟨hoffered, hheld⟩ := State.enterHold_setContext (m := m) hclear
  refine ⟨fun h => ?_, fun h hc => ?_, fun h hc => ?_⟩
  · rw [hexec, State.takeThrough_of_halted (hhalted.mpr h)]
    rfl
  · rw [hexec, State.takeThrough_of_not_halted ((bool_eq_false_iff hhalted).mpr h), hoffered hc]
    rfl
  · rw [hexec, State.takeThrough_of_not_halted ((bool_eq_false_iff hhalted).mpr h), hheld hc]
    rfl

/-! ## READ -/

theorem State.mem_entriesFor {s : State} {line : Line} {e : Entry} :
    e ∈ s.entriesFor line ↔ ∃ a, e ∈ (s.area a).queue ∧ e.line = line := by
  simp [State.entriesFor]

theorem State.decideRead_of_covered {s : State} {m : MasterId} {line : Line} {mask : Mask} (hmask : mask ≠ 0)
    (h : s.covered line mask = true) : s.decideRead m line mask = s.send m (.okayData (s.forwarded line mask)) := by
  rw [State.decideRead, if_neg hmask, if_pos h]

/-- The supplier of a marked byte is the entry posted latest among those that mark it (R43). -/
theorem State.supplier_spec {s : State} {line : Line} {i : Nat}
    (h : ∃ a, ∃ e ∈ (s.area a).queue, e.line = line ∧ e.mask.getLsbD i = true) :
    ∃ e, s.supplier line i = some e ∧ (∃ a, e ∈ (s.area a).queue ∧ e.line = line) ∧ e.mask.getLsbD i = true ∧
      ∀ b, ∀ x ∈ (s.area b).queue, x.line = line → x.mask.getLsbD i = true → x.place ≤ e.place := by
  have hmem {x : Entry} : x ∈ (s.entriesFor line).filter (fun e => e.mask.getLsbD i) ↔
      (∃ a, x ∈ (s.area a).queue ∧ x.line = line) ∧ x.mask.getLsbD i = true := by
    rw [List.mem_filter, State.mem_entriesFor]
  obtain ⟨a, x, hx, hline, hmask⟩ := h
  obtain ⟨hempty, -⟩ | ⟨e, he, hin, hlatest⟩ := newestEntry_spec ((s.entriesFor line).filter fun e => e.mask.getLsbD i)
  · exact absurd (hmem.mpr ⟨⟨a, hx, hline⟩, hmask⟩) (by rw [hempty]; exact List.not_mem_nil)
  · obtain ⟨hplace, hmarks⟩ := hmem.mp hin
    exact ⟨e, he, hplace, hmarks, fun b y hy hyline hymask => hlatest y (hmem.mpr ⟨⟨b, hy, hyline⟩, hymask⟩)⟩

/-- Settles O15: each byte asked for has a supplier. -/
theorem coveredReadForwarded : Obligations.CoveredReadForwarded := by
  intro s m line mask htake hmask hcovered
  refine ⟨s.forwarded line mask, ?_, fun i => ⟨fun hi => ?_, fun hi => ?_⟩⟩
  · rw [exec_read]
    exact execRead_of_answered htake (State.decideRead_of_covered hmask ((s.covered_iff line mask).mpr hcovered))
  · obtain ⟨e, he, ⟨a, hin, hline⟩, hmarks, hlatest⟩ := State.supplier_spec (hcovered.left i hi)
    refine ⟨a, e, hin, hline, hmarks, ?_, hlatest⟩
    simp [State.forwarded, hi, he]
  · rw [State.forwarded, Fin.getElem_fin, Vector.getElem_ofFn]
    exact if_neg (Bool.eq_false_iff.mp hi)

/-- Settles O16, by the branches of the decision. -/
theorem uncoveredReadDecided : Obligations.UncoveredReadDecided := by
  intro s m line mask htake hmask huncovered waiting halted clear
  have hcovered : ¬ s.covered line mask = true := fun h => huncovered ((s.covered_iff line mask).mp h)
  have hhalted : s.lineHalted line = true ↔ halted := s.lineHalted_iff line
  obtain ⟨hoffered, hheld⟩ := State.enterHold_setContext (s := s) (m := m) (s.lineClear_readWait_iff { line := line, mask := mask })
  have hexec : ¬ halted → exec (.read m line mask) s = .next (waiting.enterHold m) := fun h => by
    rw [exec_read, execRead, State.takeRequest_of_takesRequest htake, State.decideRead, if_neg hmask, if_neg hcovered,
      if_neg (mt hhalted.mp h)]
  refine ⟨fun h => ?_, fun h hc => ?_, fun h hc => ?_⟩
  · rw [exec_read]
    refine execRead_of_answered htake ?_
    rw [State.decideRead, if_neg hmask, if_neg hcovered, if_pos (hhalted.mpr h)]
  · rw [hexec h, hoffered hc]
  · rw [hexec h, hheld hc]

/-! ## SYNC -/

theorem State.answerHaltTerms_eq (s : State) (m : MasterId) : s.answerHaltTerms m = s.syncAnswered m (.error .halted) := by
  unfold State.answerHaltTerms State.syncAnswered
  dsimp only
  split
  · rfl
  · simp [State.answerDeferred, State.clearAccount]

theorem State.decideSync_of_halted {s : State} {m : MasterId} {a : AreaId} (hjoin : (s.master m).joinedArea = some a)
    (hhalted : (s.area a).state = .halted) : s.decideSync m = s.syncAnswered m (.error .halted) := by
  rw [State.decideSync, hjoin]
  exact (if_pos hhalted).trans (s.answerHaltTerms_eq m)

/-- The area whose entries a SYNC of the master waits for, when it is not HALTED as a joined area (R91). -/
theorem State.decideSync_of_area {s : State} {m : MasterId} {a : AreaId}
    (h : (s.master m).joinedArea = some a ∧ (s.area a).state ≠ .halted ∨
      (s.master m).joinedArea = none ∧ (s.master m).detachingArea = some a) :
    s.decideSync m = if (s.area a).queue.isEmpty then s.answerSync m else s.waitSync m := by
  unfold State.decideSync
  obtain ⟨hjoin, hstate⟩ | ⟨hjoin, hdetach⟩ := h
  · rw [hjoin]
    exact if_neg hstate
  · rw [hjoin, hdetach]

/-- Settles O17, by the cases of the master's record. -/
theorem syncDecided : Obligations.SyncDecided := by
  intro s m htake
  have hexec : exec (.sync m) s = .next (s.decideSync m) := congrArg Host.Outcome.next (State.takeRequest_of_takesRequest htake _)
  rw [hexec]
  refine ⟨fun a hjoin hhalted => ?_, fun a ha => ⟨fun hq => ?_, fun hq => ?_⟩, fun hjoin hdetach => ?_⟩
  · rw [State.decideSync_of_halted hjoin hhalted]
  · rw [State.decideSync_of_area ha, if_neg (by simpa using hq)]
    rfl
  · rw [State.decideSync_of_area ha, if_pos (by simpa using hq), State.answerSync_eq]
  · rw [State.decideSync, hjoin, hdetach, State.answerSync_eq]

/-! ## Answers -/

theorem State.conclude_responses (s : State) (n : Nat) :
    (s.conclude n).responses = s.responses.take n ++ sortAnswers (s.responses.drop n) := by
  simp [State.conclude, State.orderAnswers]

/-- Settles O18: what stands behind the first n answers is sorted, and the end of the change composes no more. -/
theorem answerDelivered : Obligations.AnswerDelivered := by
  intro s x rest n
  have hexec : s.resetHeld = false → exec .answerDelivery s = .next { s with responses := s.responses.tail } := fun h =>
    congrArg Host.Outcome.next (State.unlessReset_of_running h _)
  refine ⟨fun hreset => ⟨fun hr => ?_, fun hr => ?_⟩, _, s.conclude_responses n, sortAnswers_perm _, sortAnswers_pairwise _⟩
  · rw [hexec hreset, hr, List.tail_cons]
  · rw [hexec hreset, hr, List.tail_nil, ← hr]

end Sys2Proof.Machine
end

section
/-! The management port's commands with checks of their own: SET POOL, SET GLOBAL, SET AREA, JOIN, UNJOIN, RESUME, PURGE, DRAIN, and
those of flags, records and tags (R2, R14, R15, R88, R111, R112, R126, R127, R129, R133, R135). -/

namespace Sys2Proof.Machine

/-- ACCEPTED adds only the frame of the taken command to the command's own effect (R117, R128). -/
@[simp] theorem State.accepted_close (s : State) (args : Nat) : s.accepted.close args = s.taken (args + 1) .accepted [] := rfl

/-! ## Settings -/

theorem State.poolOccupancy_eq_zero_iff (s : State) : s.poolOccupancy = 0 ↔ ∀ a, (s.area a).queue = [] := by
  simp [State.poolOccupancy, AreaRec.occupancy, List.sum_eq_zero_iff]

/-- The first check of SET POOL (R2). -/
theorem State.allFree_iff (s : State) : ((allAreas.all fun a => (s.area a).state == .free) && s.poolOccupancy == 0) = true ↔
    ∀ a, (s.area a).state = .free ∧ (s.area a).queue = [] := by
  simp only [Bool.and_eq_true, List.all_eq_true, mem_allAreas, true_imp_iff, beq_iff_eq, State.poolOccupancy_eq_zero_iff, forall_and]

theorem exec_setPool (sizes : Vector Byte 12) (s : State) : exec (.setPool sizes) s = execSetPool sizes s := rfl

theorem exec_setGlobal (timeout mask : BitVec 16) (arb ovf : Byte) (s : State) :
    exec (.setGlobal timeout arb ovf mask) s = execSetGlobal timeout arb ovf mask s := rfl

theorem arbitrationOf_of_le {b : Byte} (h : b.toNat ≤ 1) : arbitrationOf b = some (if b = 0#8 then .roundRobin else .fixed) := by
  unfold arbitrationOf
  split
  · rfl
  · rw [if_pos (by bv_omega)]

theorem arbitrationOf_eq_none {b : Byte} (h : 1 < b.toNat) : arbitrationOf b = none := by
  unfold arbitrationOf
  rw [if_neg (by bv_omega), if_neg (by bv_omega)]

theorem onOf_eq (b : Byte) : onOf b = !(b == 0) := rfl

/-- Settles O40: the checks of both commands come in the manual's order, and only then the writing. -/
theorem poolAndGlobalsWritten : Obligations.PoolAndGlobalsWritten := by
  intro s sizes timeout mask arb ovf hrun allFree fits
  have hfree := s.allFree_iff
  have hfits : poolFits sizes = true ↔ fits := poolFits_iff sizes
  rw [exec_setPool, execSetPool, State.runningCommand_eq hrun, exec_setGlobal, execSetGlobal, State.runningCommand_eq hrun]
  refine ⟨fun h => ?_, fun h hf => ?_, fun h hf => ?_, fun h => ?_, fun hlow hhigh harb => ?_⟩
  · rw [if_neg (mt hfree.mp h), State.refuse_close]
  · rw [if_pos (hfree.mpr h), if_neg (mt hfits.mp hf), State.refuse_close]
  · rw [if_pos (hfree.mpr h), if_pos (hfits.mpr hf), State.done_close]
    rfl
  · by_cases harb : 1 < arb.toNat
    · rw [arbitrationOf_eq_none harb]
      rfl
    · have hrange : ¬ (1 ≤ timeout.toNat ∧ timeout.toNat ≤ 4095) := by omega
      rw [arbitrationOf_of_le (by omega)]
      dsimp only
      rw [if_neg hrange]
      rfl
  · rw [arbitrationOf_of_le harb]
    dsimp only
    rw [if_pos ⟨hlow, hhigh⟩, onOf_eq]
    rfl

theorem policyOf_of_le {b : Byte} (h : b.toNat ≤ 2) :
    policyOf b = some (if b = 0#8 then .carryOn else if b = 1#8 then .halt else .discard) := by
  unfold policyOf
  split
  · rfl
  · split
    · rfl
    · rw [if_pos (by bv_omega)]

theorem policyOf_eq_none {b : Byte} (h : 2 < b.toNat) : policyOf b = none := by
  unfold policyOf
  rw [if_neg (by bv_omega), if_neg (by bv_omega), if_neg (by bv_omega)]

theorem escalateOf_of_le {b : Byte} (h : b.toNat ≤ 1) : escalateOf b = some (if b = 0#8 then .never else .resetRequest) := by
  unfold escalateOf
  split
  · rfl
  · rw [if_pos (by bv_omega)]

theorem escalateOf_eq_none {b : Byte} (h : 1 < b.toNat) : escalateOf b = none := by
  unfold escalateOf
  rw [if_neg (by bv_omega), if_neg (by bv_omega)]

theorem exec_setArea (area policy escalate retry linger highWater merge : Byte) (s : State) :
    exec (.setArea area policy escalate retry linger highWater merge) s =
      execSetArea area policy escalate retry linger highWater merge s := rfl

theorem areaOf_eq_some_iff {b : Byte} {a : AreaId} : areaOf b = some a ↔ b.toNat = a.val := by
  refine ⟨fun h => ?_, areaOf_of⟩
  unfold areaOf at h
  split at h
  · rw [← Option.some.inj h]
  · cases h

/-- Settles O41: SET AREA examines its operands before the area's record. -/
theorem areaSettingsWritten : Obligations.AreaSettingsWritten := by
  intro s area policy escalate retry linger highWater merge hrun
  have hmax : Config.maxAreaSize = 128 := rfl
  rw [exec_setArea, execSetArea, State.runningCommand_eq hrun, hmax]
  refine ⟨fun h => congrArg Host.Outcome.next ?_, fun a ha hpolicy hescalate hretry hhigh => ?_⟩
  · split
    · next a p e harea hpolicy hescalate =>
      have hin : area.toNat < 12 := areaOf_eq_some_iff.mp harea ▸ a.isLt
      have hp : policy.toNat ≤ 2 := Nat.le_of_not_lt fun hlt => by simp [policyOf_eq_none hlt] at hpolicy
      have he : escalate.toNat ≤ 1 := Nat.le_of_not_lt fun hlt => by simp [escalateOf_eq_none hlt] at hescalate
      rw [if_neg (by omega), State.refuse_close]
    · rfl
  · rw [areaOf_of ha, policyOf_of_le hpolicy, escalateOf_of_le hescalate]
    dsimp only
    rw [if_pos ⟨hretry, hhigh⟩, State.done_close, onOf_eq]
    rfl

/-! ## Joining and unjoining -/

theorem exec_join (area master : Byte) (s : State) : exec (.join area master) s = execJoin area master s := rfl

/-- Settles O42, by the four checks in their order. -/
theorem joinDecided : Obligations.JoinDecided := by
  intro s area master hrun
  rw [exec_join, execJoin, State.runningCommand_eq hrun]
  refine ⟨fun h => congrArg Host.Outcome.next ?_, fun a m ha hm => congrArg Host.Outcome.next ?_⟩
  · obtain h | h := h
    · rw [areaOf_eq_none h]
      rfl
    · rw [masterOf_eq_none h]
      cases areaOf area <;> rfl
  · rw [areaOf_of ha, masterOf_of hm]
    dsimp only
    split
    · rfl
    · split
      · rfl
      · split <;> rfl

/-- The records as UNJOIN, or a soft reset, leaves them when the detach begins (R15). -/
theorem State.beginDetach_of_master {s : State} {a : AreaId} {m : MasterId} (hm : (s.area a).master = some m) (op : LongOp) :
    s.beginDetach a op = (s.setArea a { s.area a with state := .detaching, pendingOp := some op }).setMaster m
      { s.master m with joinedArea := none, detachingArea := some a } := by
  unfold State.beginDetach
  rw [hm]
  rfl

/-- The detach of a JOINED area, with its master's waiting write decided again (R15, R29). -/
theorem State.detachArea_of_master {s : State} {a : AreaId} {m : MasterId} (hm : (s.area a).master = some m) :
    s.detachArea a = (s.beginDetach a ((s.area a).pendingOp.getD .detach)).convertWaiting m := by
  unfold State.detachArea
  rw [hm]

theorem State.convertWaiting_of_posting {s : State} {m : MasterId} {w : WriteReq} (h : s.context m = .postingWait w) :
    s.convertWaiting m = s.takeThrough m w.line w.mask w.data := by
  rw [State.convertWaiting, h]

theorem State.convertWaiting_of_not_posting {s : State} {m : MasterId} (h : ∀ w, s.context m ≠ .postingWait w) :
    s.convertWaiting m = s := by
  unfold State.convertWaiting
  split
  · next w hw => exact absurd hw (h w)
  all_goals rfl

/-- Settles O43: with no operation pending, DETACH becomes the area's operation. -/
theorem unjoinBeginsDetach : Obligations.UnjoinBeginsDetach := by
  intro s area hrun
  rw [exec_unjoin, execUnjoin, State.runningCommand_eq hrun]
  refine ⟨fun h => ?_, fun a ha hjoined => ?_⟩
  · rw [areaOf_eq_none h]
    rfl
  · rw [areaOf_of ha]
    dsimp only
    rw [if_neg (not_not.mpr hjoined)]
    refine ⟨fun hop => by rw [if_pos hop, State.refuse_close], fun m hm hop => ?_⟩
    have hdetach : s.detachArea a = (s.beginDetach a .detach).convertWaiting m := by
      rw [State.detachArea_of_master hm, hop, Option.getD_none]
    have hcontext : (s.beginDetach a .detach).context m = s.context m := s.beginDetach_context a _ m
    rw [if_neg (not_not.mpr hop), hdetach, State.accepted_close]
    refine ⟨fun hnot => ?_, fun w hw => ?_⟩
    · rw [State.convertWaiting_of_not_posting (by rwa [hcontext]), State.beginDetach_of_master hm]
    · rw [State.convertWaiting_of_posting (hcontext.trans hw), State.beginDetach_of_master hm]

/-! ## Halted areas and long operations -/

theorem exec_resume (area : Byte) (s : State) : exec (.resume area) s = execResume area s := rfl

/-- Settles O45: the area's state is examined before its operation. -/
theorem resumeDecided : Obligations.ResumeDecided := by
  intro s area hrun
  rw [exec_resume, execResume, State.runningCommand_eq hrun]
  refine ⟨fun h => ?_, fun a ha => ?_⟩
  · rw [areaOf_eq_none h]
    rfl
  · rw [areaOf_of ha]
    dsimp only
    refine ⟨fun hstate => ?_, fun hstate mark hop => ?_, fun hstate hop => ?_⟩
    · rw [if_pos hstate, State.refuse_close]
    · rw [if_neg (not_not.mpr hstate), if_pos ((AreaRec.purgePending_iff _).mpr ⟨mark, hop⟩), State.refuse_close]
    · rw [if_neg (not_not.mpr hstate), if_neg (mt (AreaRec.purgePending_iff _).mp (by push Not; exact hop)), State.done_close]

theorem exec_purge (area : Byte) (s : State) : exec (.purge area) s = execPurge area s := rfl

theorem exec_drain (area : Byte) (s : State) : exec (.drain area) s = execDrain area s := rfl

/-- What ends a DRAIN that has nothing to wait for (R130). -/
theorem State.endDrain_of_passed {s : State} {a : AreaId} {mark : Nat} (hop : (s.area a).pendingOp = some (.drain mark))
    (h : ∀ e ∈ (s.area a).queue, mark ≤ e.place) : s.endDrain a =
      (s.setArea a { s.area a with pendingOp := (s.area a).opAfter, lastOutcome := .complete }).raise .drained := by
  have hpassed : ¬ (s.area a).holdsBefore mark = true := by
    rw [AreaRec.holdsBefore_iff]
    push Not
    exact h
  rw [State.endDrain, hop]
  exact if_neg hpassed

theorem State.endDrain_of_waiting {s : State} {a : AreaId} {mark : Nat} (hop : (s.area a).pendingOp = some (.drain mark))
    (h : ∃ e ∈ (s.area a).queue, e.place < mark) : s.endDrain a = s := by
  rw [State.endDrain, hop]
  exact if_pos ((AreaRec.holdsBefore_iff _ _).mpr h)

/-- Settles O46: range, state and operation are examined in this order. -/
theorem purgeAndDrainTaken : Obligations.PurgeAndDrainTaken := by
  intro s area hrun
  rw [exec_purge, execPurge, State.runningCommand_eq hrun, exec_drain, execDrain, State.runningCommand_eq hrun]
  refine ⟨fun h => ?_, fun a ha => ?_⟩
  · rw [areaOf_eq_none h]
    exact ⟨rfl, rfl⟩
  · rw [areaOf_of ha]
    dsimp only
    have harea : (s.setArea a { s.area a with pendingOp := some (.drain s.nextPlace) }).area a =
        { s.area a with pendingOp := some (.drain s.nextPlace) } := by simp
    have hpurges (h : (s.area a).state = .joined ∨ (s.area a).state = .halted) :
        ¬ ((s.area a).state = .free ∨ (s.area a).state = .detaching) := by
      rintro (h' | h') <;> simp [h'] at h
    have hdrains (h : (s.area a).state = .joined ∨ (s.area a).state = .detaching) :
        ¬ ((s.area a).state = .free ∨ (s.area a).state = .halted) := by
      rintro (h' | h') <;> simp [h'] at h
    refine ⟨fun h => ?_, fun h => ?_, fun h hop => ?_, fun h hop => ?_, fun h hop => ?_, fun h hop hwait => ?_, fun h hop hpassed => ?_⟩
    · rw [if_pos h, State.refuse_close]
    · rw [if_pos h, State.refuse_close]
    · rw [if_neg (hpurges h), if_pos hop, State.refuse_close]
    · rw [if_neg (hdrains h), if_pos hop, State.refuse_close]
    · rw [if_neg (hpurges h), if_neg (not_not.mpr hop), State.accepted_close]
      rfl
    · rw [if_neg (hdrains h), if_neg (not_not.mpr hop), State.accepted_close,
        State.endDrain_of_waiting (congrArg AreaRec.pendingOp harea) (by rwa [harea])]
    · rw [if_neg (hdrains (.inl h)), if_neg (not_not.mpr hop), State.accepted_close,
        State.endDrain_of_passed (congrArg AreaRec.pendingOp harea) (by rwa [harea]), harea, State.setArea_setArea]
      have hafter : AreaRec.opAfter { s.area a with pendingOp := some (.drain s.nextPlace) } = none := by simp [AreaRec.opAfter, h]
      rw [hafter]
      rfl

/-! ## Flags, the Reset Record and tags -/

theorem exec_ackEvents (named : BitVec 16) (s : State) : exec (.ackEvents named) s = execAckEvents named s := rfl

theorem exec_recoverTags (s : State) : exec .recoverTags s = execRecoverTags s := rfl

/-- Every position of the Event Set is an event's (R131). -/
theorem exists_event_bit {i : Nat} (h : i < 11) : ∃ e : Event, e.bit = i := by
  have hall : ∀ j : Fin 11, ∃ e ∈ [Event.fault, .overflow, .halt, .detached, .purged, .drained, .stale, .exhausted, .through,
      .shutdownDone, .escalated], e.bit = j.val := by decide
  obtain ⟨e, -, he⟩ := hall ⟨i, h⟩
  exact ⟨e, he⟩

theorem State.alert_iff (s : State) : s.alert = true ↔ ∃ e : Event, s.eventSet e = true ∧ s.alertMask.getLsbD e.bit = true := by
  unfold State.alert State.eventSet
  rw [bne_iff_ne]
  constructor
  · intro hne
    by_contra hnone
    push Not at hnone
    refine hne (BitVec.eq_of_getLsbD_eq fun i hi => ?_)
    obtain ⟨e, rfl⟩ := exists_event_bit hi
    have h := hnone e
    rw [BitVec.getLsbD_and, BitVec.getLsbD_zero]
    cases hset : s.events.getLsbD e.bit with
    | false => rfl
    | true => simpa using h hset
  · rintro ⟨e, hset, hmask⟩ hzero
    have h := congrArg (fun v => v.getLsbD e.bit) hzero
    simp only [BitVec.getLsbD_and, hset, hmask, BitVec.getLsbD_zero] at h
    cases h

theorem TagState.recovered_eq (v : TagState) : v.recovered = if v.isStale then .free else v := by cases v <;> rfl

/-- Settles O49: ALERT by the bits of the two words, and the tags one by one. -/
theorem flagsRecordAndTagsCleared : Obligations.FlagsRecordAndTagsCleared := by
  intro s named htake
  refine ⟨?_, s.alert_iff, fun hmode => ?_, fun hmode => ⟨s.freeStale, ?_, rfl, fun t => ?_⟩⟩
  · rw [exec_ackEvents, execAckEvents, State.command_eq htake]
    rfl
  · exact congrArg Host.Outcome.next (State.runningCommand_eq ⟨htake, hmode⟩ _ _)
  · rw [exec_recoverTags, execRecoverTags, State.runningCommand_eq ⟨htake, hmode⟩, State.done_close]
  · rw [State.freeStale_tag, TagState.recovered_eq]

end Sys2Proof.Machine
end

section
/-! The reports of the management port with their layouts, the frames, and the decoding of a frame's bytes (R106, R117 to R125, R134, R135;
Chapter 11). -/

namespace Sys2Proof.Machine

/-! ## Codes and numbers in a reply -/

theorem boolByte_eq (x : Bool) : boolByte x = if x then 1 else 0 := rfl

theorem bytes4_eq (n : Nat) : bytes4 n = [byteOf (n / 2 ^ 24), byteOf (n / 2 ^ 16), byteOf (n / 2 ^ 8), byteOf n] := by
  simp [bytes4, bytes2, Nat.div_div_eq_div_mul]

theorem lineBytes_eq (l : Line) : lineBytes l =
    [byteOf (l.toNat / 2 ^ 32), byteOf (l.toNat / 2 ^ 24), byteOf (l.toNat / 2 ^ 16), byteOf (l.toNat / 2 ^ 8), byteOf l.toNat] := by
  rw [lineBytes, bytes4_eq]
  rfl

theorem byteOf_eq_of_mod {m n : Nat} (h : m % 256 = n % 256) : byteOf m = byteOf n := by
  refine BitVec.eq_of_toNat_eq ?_
  simpa [byteOf] using h

theorem TagState.bits_le (v : TagState) : v.bits ≤ 2 := by cases v <;> simp [TagState.bits]

/-- The two bytes of the word of tag states: tags 4 to 7, then tags 0 to 3 (11.3). -/
theorem State.tagWord_bytes (s : State) : bytes2 s.tagWord =
    [byteOf ((s.tag 4).bits + 4 * (s.tag 5).bits + 16 * (s.tag 6).bits + 64 * (s.tag 7).bits),
      byteOf ((s.tag 0).bits + 4 * (s.tag 1).bits + 16 * (s.tag 2).bits + 64 * (s.tag 3).bits)] := by
  have hword : s.tagWord = (s.tag 0).bits + 4 * (s.tag 1).bits + 16 * (s.tag 2).bits + 64 * (s.tag 3).bits +
      256 * ((s.tag 4).bits + 4 * (s.tag 5).bits + 16 * (s.tag 6).bits + 64 * (s.tag 7).bits) := by
    simp only [State.tagWord, allTags, List.finRange, List.ofFn_succ, List.ofFn_zero, List.map_cons, List.map_nil, List.sum_cons,
      List.sum_nil]
    simp
    ring
  have h0 := (s.tag 0).bits_le
  have h1 := (s.tag 1).bits_le
  have h2 := (s.tag 2).bits_le
  have h3 := (s.tag 3).bits_le
  rw [bytes2, hword, byteOf_eq_of_mod (m := _ / 256) (n := (s.tag 4).bits + 4 * (s.tag 5).bits + 16 * (s.tag 6).bits + 64 * (s.tag 7).bits)
    (by omega), byteOf_eq_of_mod (m := _ + 256 * _)
      (n := (s.tag 0).bits + 4 * (s.tag 1).bits + 16 * (s.tag 2).bits + 64 * (s.tag 3).bits) (by omega)]

/-- A count of the tags in one state is the number of those with its code. -/
theorem countP_allTags_bits (s : State) (p : TagState → Bool) (c : Nat) (hp : ∀ v : TagState, p v = decide (v.bits = c)) :
    (allTags.countP fun t => p (s.tag t)) = (allTags.filter fun t => (s.tag t).bits = c).length := by
  rw [List.countP_eq_length_filter]
  simp only [hp]

theorem TagState.isFree_eq (v : TagState) : v.isFree = decide (v.bits = 0) := by cases v <;> rfl

theorem TagState.isBusy_eq (v : TagState) : v.isBusy = decide (v.bits = 1) := by cases v <;> rfl

theorem TagState.isStale_eq (v : TagState) : v.isStale = decide (v.bits = 2) := by cases v <;> rfl

theorem State.areasIn_eq (s : State) (v : AreaState) : s.areasIn v = (allAreas.filter fun a => (s.area a).state = v).length := by
  rw [State.areasIn, List.countP_eq_length_filter]
  rfl

/-! ## The reports -/

theorem exec_identify (s : State) : exec .identify s = execIdentify s := rfl

theorem exec_getStatus (s : State) : exec .getStatus s = execGetStatus s := rfl

theorem exec_getArea (area : Byte) (s : State) : exec (.getArea area) s = execGetArea area s := rfl

theorem exec_getMaster (master : Byte) (s : State) : exec (.getMaster master) s = execGetMaster master s := rfl

theorem exec_readResetRecord (s : State) : exec .readResetRecord s = execReadResetRecord s := rfl

theorem exec_peekFault (s : State) : exec .peekFault s = execPeekFault s := rfl

theorem exec_readFault (s : State) : exec .readFault s = execReadFault s := rfl

theorem State.reply_close (s : State) (bytes : List Byte) (args : Nat) : (s.reply bytes).close args = s.taken (args + 1) .done bytes := rfl

theorem execPeekFault_of_cons {s : State} (htake : s.takesCommand) {r : FaultRecord} {rest : List FaultRecord}
    (hlog : s.faultLog = r :: rest) : execPeekFault s = .next (s.taken 1 .done r.reply) := by
  rw [execPeekFault, State.command_eq htake, hlog]
  rfl

/-- Settles O38, reply by reply: the codes of the statement are those of the model. -/
theorem reportsChangeNothing : Obligations.ReportsChangeNothing := by
  intro s arg htake b flag number line cause reset
  have hb : b = byteOf := rfl
  have hflag : flag = boolByte := rfl
  have hnumber : number = numberByte := funext fun x => by cases x <;> rfl
  have hline : line = lineBytes := funext fun l => (lineBytes_eq l).symm
  have hcause : cause = FaultCause.code := funext fun c => by cases c <;> rfl
  clear_value flag number line cause b
  subst hb hflag hnumber hline hcause
  refine ⟨?_, revision_ne_zero, ?_, fun a ha => ?_, fun h => ?_, fun m hm => ?_, fun h => ?_, ?_, fun r rest hlog => ?_, fun hlog => ?_⟩
  · rw [exec_identify, execIdentify, State.command_eq htake]
    rfl
  · intro areas tagCode tags occupancy
    have hcode : tagCode = fun t => (s.tag t).bits := funext fun t => by
      simp only [tagCode]
      cases s.tag t <;> rfl
    rw [exec_getStatus, execGetStatus, State.command_eq htake, State.reply_close]
    refine congrArg (fun l => Host.Outcome.next (s.taken 1 .done l)) ?_
    clear_value tagCode
    subst hcode
    rw [State.statusReply, State.tagWord_bytes, countP_allTags_bits s _ 0 TagState.isFree_eq, countP_allTags_bits s _ 1 TagState.isBusy_eq,
      countP_allTags_bits s _ 2 TagState.isStale_eq, s.areasIn_eq .free, s.areasIn_eq .joined, s.areasIn_eq .halted,
      s.areasIn_eq .detaching]
    refine congrArg₂ List.cons ?_ rfl
    cases s.mode <;> rfl
  · rw [exec_getArea, execGetArea, State.command_eq htake, areaOf_of ha]
    refine congrArg (fun l => Host.Outcome.next (s.taken 2 .done l)) ?_
    have hissued : (s.area a).issuedCount = ((s.area a).queue.filter Entry.isIssued).length := List.countP_eq_length_filter
    rw [← hissued]
    change s.areaReply a = _
    refine congrArg₂ List.cons ?_ (congrArg₂ List.cons rfl (congrArg₂ List.cons rfl (congrArg₂ List.cons rfl
      (congrArg₂ List.cons ?_ (congrArg₂ List.cons ?_ (congrArg₂ List.cons rfl (congrArg₂ List.cons rfl (congrArg₂ List.cons rfl
        (congrArg₂ List.cons rfl (congrArg₂ List.cons ?_ (congrArg₂ List.cons ?_ rfl)))))))))))
    · cases (s.area a).state <;> rfl
    · cases (s.area a).policy <;> rfl
    · cases (s.area a).escalate <;> rfl
    · rcases (s.area a).pendingOp with _ | _ | _ | _ <;> rfl
    · cases (s.area a).lastOutcome <;> rfl
  · rw [exec_getArea, execGetArea, State.command_eq htake, areaOf_eq_none h]
    rfl
  · rw [exec_getMaster, execGetMaster, State.command_eq htake, masterOf_of hm]
    refine congrArg (fun l => Host.Outcome.next (s.taken 2 .done l)) ?_
    refine congrArg₂ (fun fault context => _ ++ fault ++ [boolByte (s.master m).throughSeen, context]) ?_ ?_
    · cases (s.master m).firstFault <;> rfl
    · cases (s.master m).context <;> rfl
  · rw [exec_getMaster, execGetMaster, State.command_eq htake, masterOf_eq_none h]
    rfl
  · rw [exec_readResetRecord, execReadResetRecord, State.command_eq htake, State.reply_close]
    refine congrArg (fun l => Host.Outcome.next (s.taken 1 .done l)) (congrArg₂ List.cons ?_ rfl)
    cases s.resetRecord.cause <;> rfl
  · rw [exec_peekFault, execPeekFault_of_cons htake hlog]
    refine congrArg (fun l => Host.Outcome.next (s.taken 1 .done l)) ?_
    rw [FaultRecord.reply, bytes4_eq]
    cases r.mask <;> rfl
  · rw [exec_peekFault, execPeekFault, State.command_eq htake, hlog]
    rfl

/-! ## READ FAULT -/

theorem execReadFault_of_cons {s : State} (htake : s.takesCommand) {r : FaultRecord} {rest : List FaultRecord}
    (hlog : s.faultLog = r :: rest) : execReadFault s = .next { s with frame := .taken 1 .done r.reply true } := by
  rw [execReadFault, State.command_eq htake]
  split
  · next hlog' =>
    obtain ⟨rfl, rfl⟩ := List.cons.inj (hlog'.symm.trans hlog)
    rfl
  · next hnil => cases hnil.symm.trans hlog

theorem exec_faultRecordRemoval (s : State) : exec .faultRecordRemoval s = execFaultRecordRemoval s := rfl

theorem execFaultRecordRemoval_of_taken {s : State} (hreset : s.resetHeld = false) {bytes : Nat} {status : Status} {reply : List Byte}
    (hframe : s.frame = .taken bytes status reply true) :
    execFaultRecordRemoval s = .next { s with faultLog := s.faultLog.tail, frame := .taken bytes status reply false } := by
  rw [execFaultRecordRemoval, State.unlessReset_of_running hreset, hframe]

theorem execFaultRecordRemoval_of_not {s : State} (hreset : s.resetHeld = false)
    (hframe : ∀ bytes status reply, s.frame ≠ .taken bytes status reply true) : execFaultRecordRemoval s = .next s := by
  rw [execFaultRecordRemoval, State.unlessReset_of_running hreset]
  split
  · next h => exact absurd h (hframe _ _ _)
  all_goals rfl

/-- Settles O39: the record leaves the log by FAULT_RECORD_REMOVAL alone, which the frame allows once. -/
theorem readFaultRemovesAtLastByte : Obligations.ReadFaultRemovesAtLastByte := by
  intro s htake
  obtain ⟨hreset, hframe⟩ := id htake
  simp only [exec_readFault, exec_peekFault, exec_faultRecordRemoval]
  refine ⟨fun r rest hlog => ⟨{ s with frame := .taken 1 .done r.reply true }, execReadFault_of_cons htake hlog,
    ⟨r.reply, rfl, execPeekFault_of_cons htake hlog, ?_, ?_⟩, rfl⟩, fun hlog => ?_, ?_⟩
  · refine (execFaultRecordRemoval_of_taken (s := { s with frame := .taken 1 .done r.reply true }) hreset rfl).trans ?_
    dsimp only
    rw [hlog, List.tail_cons]
  · exact execFaultRecordRemoval_of_not hreset nofun
  · rw [execReadFault, State.command_eq htake, hlog]
    rfl
  · exact execFaultRecordRemoval_of_not hreset (by simp [hframe])

/-! ## Frames -/

theorem State.command_of_frame {s : State} (h : s.frame ≠ .command) (args : Nat) (k : State → Taken) : s.command args k = s := by
  cases hreset : s.resetHeld with
  | true => exact State.unlessReset_of_held hreset _
  | false => exact (State.unlessReset_of_running hreset _).trans (if_neg h)

theorem State.runningCommand_of_frame {s : State} (h : s.frame ≠ .command) (args : Nat) (k : State → Taken) :
    s.runningCommand args k = s :=
  State.command_of_frame h args _

/-- Settles O52: the frame is examined before the mode, and the mode before every check of the command's own. -/
theorem framesAndShutdown : Obligations.FramesAndShutdown := by
  intro s i a b c d e f g sizes x y
  refine ⟨rfl, fun hreset hframe => ?_, fun h => ?_, fun hi hframe => ?_, fun htake => ?_, fun htake hmode => ?_⟩
  · refine congrArg Host.Outcome.next (if_neg ?_)
    simp [hreset, hframe]
  · exact congrArg Host.Outcome.next (if_pos h)
  · cases i with
    | identify | getStatus | getArea | getMaster | readResetRecord | peekFault | readFault | ackEvents | unknownCommand =>
      exact congrArg Host.Outcome.next (State.command_of_frame hframe _ _)
    | setPool | setArea | setGlobal | join | unjoin | resume | purge | drain | clearMaster | recoverTags | softReset | clearResetRecord =>
      exact congrArg Host.Outcome.next (State.runningCommand_of_frame hframe _ _)
    | _ => cases hi
  · exact congrArg Host.Outcome.next (State.command_eq htake _ _)
  · have hbusy (n : Nat) (k : State → Taken) := congrArg (Host.Outcome.next (φ := Fault) (ρ := Refusal))
      (State.runningCommand_busy htake hmode n k)
    exact ⟨hbusy _ _, hbusy _ _, hbusy _ _, hbusy _ _, hbusy _ _, hbusy _ _, hbusy _ _, hbusy _ _, hbusy _ _, hbusy _ _, hbusy _ _,
      hbusy _ _⟩

/-! ## Encoding and decoding -/

theorem word16_hiByte_loByte (w : BitVec 16) : word16 (hiByte w) (loByte w) = w := by
  refine BitVec.eq_of_getLsbD_eq fun i hi => ?_
  simp only [word16, hiByte, loByte, BitVec.getLsbD_append, BitVec.getLsbD_extractLsb']
  by_cases h : i < 8
  · simp [h]
  · have hsum : 8 + (i - 8) = i := by omega
    have hlow : i - 8 < 8 := by omega
    simp [h, hsum, hlow]

theorem sizesOf_toList (sizes : Vector Byte 12) (tail : List Byte) : sizesOf (sizes.toList ++ tail) = some (sizes, tail) := by
  obtain ⟨⟨l⟩, hlen⟩ := sizes
  match l, hlen with
  | [a, b, c, d, e, f, g, h, i, j, k, l], _ => rfl

/-- A code of no command is taken without arguments (R119). -/
theorem decodeArguments_of_unlisted {code : Byte} (h : commandCodes.contains code = false) (args : List Byte) :
    decodeArguments code args = some (.unknownCommand code, args) := by
  have hne : ∀ n ∈ commandCodes.map BitVec.toNat, code.toNat ≠ n := by
    intro n hn heq
    obtain ⟨c, hc, rfl⟩ := List.mem_map.mp hn
    obtain rfl := BitVec.eq_of_toNat_eq heq
    simp [hc] at h
  unfold decodeArguments
  split
  iterate 20 · next hcode => exact absurd hcode (hne _ (by decide))
  rfl

/-- Settles O53: each code selects its own decoder, which takes the argument bytes that the encoder wrote. -/
theorem frameRoundTrip : Obligations.FrameRoundTrip := by
  intro i bytes tail hwell hencode
  cases i with
  | setPool sizes =>
    obtain rfl := Option.some.inj hencode
    exact congrArg (Option.map _) (sizesOf_toList sizes tail)
  | setGlobal timeout arb ovf mask =>
    obtain rfl := Option.some.inj hencode
    have h : decodeFrame ([0x07#8, hiByte timeout, loByte timeout, arb, ovf, hiByte mask, loByte mask] ++ tail) =
      some (.setGlobal (word16 (hiByte timeout) (loByte timeout)) arb ovf (word16 (hiByte mask) (loByte mask)), tail) := rfl
    rw [h, word16_hiByte_loByte, word16_hiByte_loByte]
  | ackEvents w =>
    obtain rfl := Option.some.inj hencode
    have h : decodeFrame ([0x23#8, hiByte w, loByte w] ++ tail) = some (.ackEvents (word16 (hiByte w) (loByte w)), tail) := rfl
    rw [h, word16_hiByte_loByte]
  | unknownCommand code =>
    obtain rfl := Option.some.inj hencode
    exact decodeArguments_of_unlisted (by simpa [Instr.wellFormed] using hwell) tail
  | identify | getStatus | getArea | getMaster | setArea | join | unjoin | resume | purge | drain | peekFault | readFault | clearMaster
    | recoverTags | softReset | readResetRecord | clearResetRecord =>
    obtain rfl := Option.some.inj hencode
    rfl
  | _ => cases hencode

end Sys2Proof.Machine
end

section
/-! Completions and the Fault Unit: what becomes of a posted entry or of a master's request (R78 to R86), and of a final failure (R103). -/

namespace Sys2Proof.Machine

/-! ## Drops -/

theorem State.charge_eq (s : State) (m : MasterId) (k : Nat) (line : Line) (cause : FaultCause) :
    s.charge m k line cause = s.setMaster m
      { s.master m with
        pendingCount := min 255 ((s.master m).pendingCount + k)
        firstFault := if (s.master m).firstFault = none then some { line := line, cause := cause } else (s.master m).firstFault } := by
  unfold State.charge
  cases hfirst : (s.master m).firstFault <;> simp [hfirst, Config.pendingMax]

theorem State.dropEntries_of_none {s : State} {a : AreaId} {drop : Entry → Bool} (cause : FaultCause)
    (h : ∀ e ∈ (s.area a).queue, drop e = false) : s.dropEntries a cause drop = s := by
  have hempty : (s.area a).queue.filter drop = [] := List.filter_eq_nil_iff.mpr fun e he => by simp [h e he]
  rw [State.dropEntries, hempty]

theorem State.dropEntries_of_cons {s : State} {a : AreaId} {m : MasterId} {drop : Entry → Bool} (cause : FaultCause) {e : Entry}
    {es : List Entry} (hm : (s.area a).master = some m) (h : (s.area a).queue.filter drop = e :: es) :
    s.dropEntries a cause drop =
      ((s.setQueue a ((s.area a).queue.filter fun x => !drop x)).makeRecord
        { number := 0, master := m, area := some a, line := e.line, mask := none, cause := cause, attempts := 0
          entries := es.length + 1, disposition := .pending, escalated := false }).charge m (es.length + 1) e.line cause := by
  rw [State.dropEntries, h, hm]

/-- Settles O47: the record takes the counter's value whatever number it comes with, and the charge is the master record's. -/
theorem dropMakesSummary : Obligations.DropMakesSummary := by
  intro s a m cause drop hm
  refine ⟨s.dropEntries_of_none cause, fun e es hdrop => ?_⟩
  intro n r record
  rw [State.dropEntries_of_cons cause hm hdrop, State.charge_eq]
  have hmaster : ((s.setQueue a ((s.area a).queue.filter fun x => !drop x)).makeRecord record).master m = r := by simp [r]
  exact congrArg (State.setMaster _ m) (by rw [← hmaster]; rfl)

/-! ## A final failure -/

theorem State.removeEntry_eq (s : State) (a : AreaId) (place : Nat) :
    s.removeEntry a place = s.setQueue a ((s.area a).queue.filter fun x => x.place != place) := rfl

theorem State.answerStrict_of_master {s : State} {a : AreaId} {m : MasterId} (hm : (s.area a).master = some m) (place : Nat)
    (body : AnswerBody) : s.answerStrict a place body = if s.context m = .strictWait place then s.answer m body else s := by
  rw [State.answerStrict, hm]

theorem State.finalFailure_of_master {s : State} {a : AreaId} {m : MasterId} (hm : (s.area a).master = some m) (e : Entry)
    (how : Failure) : s.finalFailure a e how = ((s.recordFailure a m e how).applyPolicy a).escalateArea a := by
  rw [State.finalFailure, hm]

/-- The record and the retirement leave nothing of the area's record but its queue (R103). -/
theorem State.recordFailure_area_self (s : State) (a : AreaId) (m : MasterId) (e : Entry) (how : Failure) :
    (s.recordFailure a m e how).area a = { s.area a with queue := (s.area a).queue.filter fun x => x.place != e.place } := by
  unfold State.recordFailure
  dsimp only
  split <;> simp

theorem State.escalateArea_eq (s : State) (a : AreaId) : s.escalateArea a =
    if (s.area a).escalate = .resetRequest then { s with rstreq := true, events := s.events ||| 0x400#11 } else s := by
  unfold State.escalateArea
  rw [State.escalation_eq]

theorem AreaRec.haltedRec_escalate (r : AreaRec) : r.haltedRec.escalate = r.escalate := by
  unfold AreaRec.haltedRec
  dsimp only
  split <;> rfl

theorem State.dropEntries_escalate (s : State) (a : AreaId) (cause : FaultCause) (drop : Entry → Bool) :
    ((s.dropEntries a cause drop).area a).escalate = (s.area a).escalate := by
  unfold State.dropEntries
  split
  · simp
  · rfl

/-- Settles O29: the policy and the escalation are read from the area's record, which the record and the retirement leave. -/
theorem finalFailureHandled : Obligations.FinalFailureHandled := by
  intro s a m e how hm record retired r told escalated
  have hrecord : s.makeRecord ((s.area a).failureRecord a m e how.cause) = s.makeRecord record := by
    have hescalated : ((s.area a).escalate == Escalate.resetRequest) = decide ((s.area a).escalate = .resetRequest) := rfl
    rw [AreaRec.failureRecord, hescalated]
    rfl
  have htold : s.recordFailure a m e how = told := by
    have hretired : (s.makeRecord record).removeEntry a e.place = retired := by
      rw [State.removeEntry_eq, State.area_of_areas (s := s) (by simp)]
    have harea : (retired.area a).master = some m := by simp [retired, hm]
    have hcontext : retired.context m = s.context m := by simp [retired]
    have hmaster : retired.master m = r := by simp [retired, r]
    unfold State.recordFailure
    dsimp only
    rw [hrecord, hretired, State.answerStrict_of_master harea, hcontext, State.charge_eq, hmaster]
  have harea : told.area a = { s.area a with queue := (s.area a).queue.filter fun x => x.place != e.place } :=
    htold ▸ s.recordFailure_area_self a m e how
  have hescalate {u : State} (hu : (u.area a).escalate = (s.area a).escalate) : u.escalateArea a = escalated u := by
    rw [State.escalateArea_eq, hu]
  rw [State.finalFailure_of_master hm, htold, State.applyPolicy, harea]
  dsimp only
  refine ⟨fun h => ?_, fun hpolicy hstate => ?_, fun hpolicy => ?_⟩
  · obtain hpolicy | ⟨hpolicy, hstate⟩ := h
    · rw [hpolicy]
      exact hescalate (by rw [harea])
    · rw [hpolicy]
      dsimp only
      rw [if_neg hstate]
      exact hescalate (by rw [harea])
  · rw [hpolicy]
    dsimp only
    rw [if_pos hstate]
    exact hescalate (by rw [State.haltArea_area, if_pos rfl, AreaRec.haltedRec_escalate, harea])
  · rw [hpolicy]
    exact hescalate (by rw [State.dropEntries_escalate, harea])

/-! ## Attempts that fail -/

section
variable {s : State} {a : AreaId} {e : Entry} {how : Failure}

theorem State.attemptFailed_of_final (h : how = .decode ∨ (∃ mark, (s.area a).pendingOp = some (.purge mark)) ∨
    (s.area a).retry < e.attempts) : s.attemptFailed a e how = (s.finalFailure a e how).settleArea a := by
  rw [← AreaRec.purgePending_iff] at h
  exact if_pos h

theorem State.attemptFailed_of_strict (hhow : how ≠ .decode) (hpurge : ¬ ∃ mark, (s.area a).pendingOp = some (.purge mark))
    (hretry : ¬ (s.area a).retry < e.attempts) (hstrict : e.strict = true) (hstate : (s.area a).state = .halted) :
    s.attemptFailed a e how =
      ((s.setQueue a ((s.area a).queue.filter fun x => x.place != e.place)).answerStrict a e.place (.error .halted)).settleArea a := by
  rw [← AreaRec.purgePending_iff] at hpurge
  rw [State.attemptFailed, if_neg (by tauto), if_pos ⟨hstrict, hstate⟩]
  rfl

theorem State.attemptFailed_of_retried (hhow : how ≠ .decode) (hpurge : ¬ ∃ mark, (s.area a).pendingOp = some (.purge mark))
    (hretry : ¬ (s.area a).retry < e.attempts) (h : e.strict = false ∨ (s.area a).state ≠ .halted) :
    s.attemptFailed a e how = s.updateEntry a e.place fun x => { x with state := .reissue } := by
  have hnot : ¬ (e.strict = true ∧ (s.area a).state = .halted) := by
    rintro ⟨hstrict, hstate⟩
    simp [hstrict, hstate] at h
  rw [← AreaRec.purgePending_iff] at hpurge
  rw [State.attemptFailed, if_neg (by tauto), if_neg hnot]
  rfl

end

/-! ## Completions -/

theorem exec_completion (t : TagId) (result : BitVec 2) (data : LineData) (s : State) :
    exec (.completion t result data) s = execCompletion t result data s := rfl

section
variable {s : State} {t : TagId}

theorem execCompletion_of_running (hreset : s.resetHeld = false) (result : BitVec 2) (data : LineData) :
    execCompletion t result data s = .next (s.takeCompletion t (memResult result) data) := by
  rw [execCompletion, State.unlessReset_of_running hreset]

theorem State.takeCompletion_of_busy {tr : Transaction} (htag : s.tag t = .busy tr) (result : MemResult) (data : LineData) :
    s.takeCompletion t result data = ((s.setTag t .free).handResult tr.user result data).conclude s.responses.length := by
  rw [State.takeCompletion, htag]

theorem State.handResult_of_entry {a : AreaId} {e : Entry} (hat : (s.area a).entryAt e.place = some e) (result : MemResult)
    (data : LineData) : s.handResult (.entry a e.place) result data =
      match result with
      | .done => s.retireDone a e
      | .failed how => s.attemptFailed a e how := by
  cases result <;> simp only [State.handResult, hat]

end

/-- Settles O26, by the two states of a tag without a transaction. -/
theorem unmatchedCompletion : Obligations.UnmatchedCompletion := by
  intro s t result data hreset
  rw [exec_completion, execCompletion_of_running hreset, State.takeCompletion]
  refine ⟨fun htag => ?_, fun b htag => ?_⟩ <;> rw [htag]

/-- Settles O27: the retired place is none of those that the news or the change's end put into the queue. -/
theorem doneRetiresEntry : Obligations.DoneRetiresEntry := by
  intro s t data tr a e hreset htag huser hat freed answered
  have hexec : exec (.completion t 0#2 data) s = .next ((answered.settleArea a).conclude s.responses.length) := by
    rw [exec_completion, execCompletion_of_running hreset, State.takeCompletion_of_busy htag, huser]
    exact congrArg (fun u => Host.Outcome.next (State.conclude u s.responses.length))
      (State.handResult_of_entry (s := s.setTag t .free) hat .done data)
  refine ⟨hexec, fun hplace s' hs' x hx => ?_⟩
  obtain rfl := Host.Outcome.next.inj (hexec.symm.trans hs')
  have hnext : answered.nextPlace = s.nextPlace := by
    simp only [answered]
    split <;> simp [freed]
  have hqueue : (answered.area a).queue = (s.area a).queue.filter fun y => y.place != e.place := by
    simp only [answered]
    split <;> simp [freed]
  obtain ⟨y, hy, hyx⟩ := State.conclude_places _ _ a x hx
  rw [← hyx]
  obtain hnew | ⟨z, hz, hzy⟩ := State.settleArea_places answered a a y hy
  · omega
  · rw [← hzy]
    rw [hqueue, List.mem_filter] at hz
    simpa using hz.right

/-- Settles O28: FAIL and an unlisted result are FAIL, and DECODE is final at once. -/
theorem failedAttemptDecided : Obligations.FailedAttemptDecided := by
  intro s t result data tr a e hreset htag huser hat freed n purging
  have hexec (how : Failure) (hhow : memResult result = .failed how) :
      exec (.completion t result data) s = .next ((freed.attemptFailed a e how).conclude n) := by
    rw [exec_completion, execCompletion_of_running hreset, State.takeCompletion_of_busy htag, huser, hhow]
    exact congrArg (fun u => Host.Outcome.next (State.conclude u n)) (State.handResult_of_entry (s := freed) hat _ data)
  have hfail (h : result = 1#2 ∨ result = 3#2) : memResult result = .failed .fail := by
    obtain rfl | rfl := h <;> rfl
  refine ⟨fun h hattempts hpurge => ⟨fun hkept => ?_, fun hstrict hstate => ?_⟩, fun h hfinal => ?_, fun h => ?_⟩
  · rw [hexec .fail (hfail h), State.attemptFailed_of_retried (s := freed) (how := .fail) nofun hpurge (Nat.not_lt.mpr hattempts) hkept]
  · rw [hexec .fail (hfail h), State.attemptFailed_of_strict (s := freed) (how := .fail) nofun hpurge (Nat.not_lt.mpr hattempts) hstrict
      hstate]
    rfl
  · rw [hexec .fail (hfail h), State.attemptFailed_of_final (s := freed) (.inr hfinal.symm)]
  · rw [hexec .decode (by rw [h]; rfl), State.attemptFailed_of_final (.inl rfl)]

/-! ## A master's request -/

section
variable {s : State} {m : MasterId} {t : TagId}

theorem State.requestDone_of_read {r : ReadReq} (h : s.context m = .readWait r (.issued t)) (data : LineData) :
    s.requestDone m data = s.answer m (.okayData (keepMarked r.mask data)) := by
  rw [State.requestDone, h]

theorem State.requestDone_of_through {w : ThroughReq} (h : s.context m = .throughWait w (.issued t)) (data : LineData) :
    s.requestDone m data = s.answer m .okay := by
  rw [State.requestDone, h]

theorem State.requestFailed_of_read {r : ReadReq} (h : s.context m = .readWait r (.issued t)) (how : Failure) :
    s.requestFailed m how = s.answer m (.error how.reason) := by
  rw [State.requestFailed, h]

theorem State.requestFailed_of_through {w : ThroughReq} (h : s.context m = .throughWait w (.issued t)) (how : Failure) :
    s.requestFailed m how = (s.makeRecord
      { number := s.recordCounter, master := m, area := none, line := w.line, mask := some w.mask, cause := how.cause, attempts := 1
        entries := 1, disposition := .direct, escalated := false }).answer m (.error how.reason) := by
  rw [State.requestFailed, h]
  rfl

end

/-- Settles O31, by the result's code. -/
theorem masterRequestAnswered : Obligations.MasterRequestAnswered := by
  intro s t data tr m hreset htag huser u n
  have hexec (result : BitVec 2) : exec (.completion t result data) s =
      .next ((u.handResult (.master m) (memResult result) data).conclude n) := by
    rw [exec_completion, execCompletion_of_running hreset, State.takeCompletion_of_busy htag, huser]
  have hfailed (result : BitVec 2) (how : Failure) (h : memResult result = .failed how) :
      exec (.completion t result data) s = .next ((u.requestFailed m how).conclude n) := by
    rw [hexec, h]
    rfl
  have hdone : exec (.completion t 0#2 data) s = .next ((u.requestDone m data).conclude n) := hexec 0#2
  refine ⟨fun r hr => ?_, fun w hw => ?_⟩
  · have hu : u.context m = .readWait r (.issued t) := hr
    rw [hdone, hfailed 1#2 .fail rfl, hfailed 2#2 .decode rfl, hfailed 3#2 .fail rfl, State.requestDone_of_read hu,
      State.requestFailed_of_read hu, State.requestFailed_of_read hu]
    exact ⟨rfl, rfl, rfl, rfl⟩
  · intro failed
    have hu : u.context m = .throughWait w (.issued t) := hw
    rw [hdone, hfailed 1#2 .fail rfl, hfailed 2#2 .decode rfl, hfailed 3#2 .fail rfl, State.requestDone_of_through hu,
      State.requestFailed_of_through hu, State.requestFailed_of_through hu]
    exact ⟨rfl, rfl, rfl, rfl⟩

end Sys2Proof.Machine
end

section
/-! The bridge's own steps as commands: POSTING_WAIT_RETRY, HOLD_RELEASE, SYNC_COMPLETION, the ends of the long operations, and
SOFT_RESET_END (R17, R27, R48, R92, R114, R130, R141). -/

namespace Sys2Proof.Machine

/-! ## Waiters -/

theorem exec_postingWaitRetry {s : State} (hreset : s.resetHeld = false) (a : AreaId) :
    exec (.postingWaitRetry a) s = .next (s.retryPosting a).arbitrate :=
  congrArg Host.Outcome.next (State.unlessReset_of_running hreset _)

theorem State.retryPosting_of_room {s : State} {a : AreaId} {m : MasterId} {w : WriteReq} (hm : (s.area a).master = some m)
    (hw : s.context m = .postingWait w) (hstate : (s.area a).state = .joined) (hroom : (s.area a).occupancy < (s.area a).size) :
    s.retryPosting a = s.decideJoined m a w := by
  rw [State.retryPosting, hm]
  dsimp only
  rw [hw]
  exact if_pos ⟨hstate, hroom⟩

theorem State.retryPosting_of_none {s : State} {a : AreaId}
    (h : (∀ m, (s.area a).master = some m → ∀ w, s.context m ≠ .postingWait w) ∨ ¬ (s.area a).occupancy < (s.area a).size) :
    s.retryPosting a = s := by
  unfold State.retryPosting
  split
  · rfl
  · next m hm =>
    split
    · next w hw =>
      refine if_neg fun ⟨_, hroom⟩ => ?_
      obtain hnot | hfull := h
      · exact hnot m hm w hw
      · exact hfull hroom
    all_goals rfl

/-- Settles O34: the waiting write is decided as a new one is, with a slot free. -/
theorem postingWaitDecidedAgain : Obligations.PostingWaitDecidedAgain := by
  intro s a hreset
  rw [exec_postingWaitRetry hreset]
  refine ⟨fun m w hm hw hstate hroom => ?_, fun h => by rw [State.retryPosting_of_none h]⟩
  intro entry posted
  rw [State.retryPosting_of_room hm hw hstate hroom]
  refine ⟨fun e htarget => by rw [State.decideJoined_of_target htarget], fun htarget => ?_⟩
  rw [State.decideJoined_of_room htarget hroom]
  rfl

theorem exec_holdRelease {s : State} (hreset : s.resetHeld = false) (m : MasterId) :
    exec (.holdRelease m) s = .next (s.releaseOne m).arbitrate :=
  congrArg Host.Outcome.next (State.unlessReset_of_running hreset _)

theorem State.releaseOne_of_clear {s : State} {m : MasterId} (h : s.lineClear (s.context m) = true) : s.releaseOne m =
    { s with holdList := s.holdList.map fun p => if p.master = m then { p with released := true } else p } := by
  simp only [State.releaseOne, h, and_true]

theorem State.releaseOne_of_not_clear {s : State} {m : MasterId} (h : s.lineClear (s.context m) = false) : s.releaseOne m = s := by
  simp [State.releaseOne, h]

theorem exec_syncCompletion {s : State} (hreset : s.resetHeld = false) (m : MasterId) :
    exec (.syncCompletion m) s = .next (s.completeSync m) :=
  congrArg Host.Outcome.next (State.unlessReset_of_running hreset _)

theorem State.completeSync_of_area {s : State} {m : MasterId} {a : AreaId} {mark : Nat} (hc : s.context m = .syncWait mark)
    (ha : s.syncArea m = some a) : s.completeSync m = if (s.area a).holdsBefore mark then s else s.answerSync m := by
  rw [State.completeSync, hc, ha]

theorem State.completeSync_of_not {s : State} {m : MasterId} (h : ∀ mark, s.context m ≠ .syncWait mark) : s.completeSync m = s := by
  unfold State.completeSync
  split
  · next mark _ hc _ => exact absurd hc (h _)
  · next hc _ => exact absurd hc (h _)
  · rfl

/-- Settles O35: the release tests the line of the waiting request, the completion the mark of the waiting SYNC. -/
theorem waitersReleased : Obligations.WaitersReleased := by
  intro s m hreset released
  rw [exec_holdRelease hreset, exec_syncCompletion hreset]
  have hrelease {clear : Prop} (h : s.lineClear (s.context m) = true ↔ clear) :
      (clear → Host.Outcome.next (φ := Fault) (ρ := Refusal) (s.releaseOne m).arbitrate = .next released.arbitrate) ∧
        (¬ clear → Host.Outcome.next (φ := Fault) (ρ := Refusal) (s.releaseOne m).arbitrate = .next s.arbitrate) := by
    refine ⟨fun hclear => ?_, fun hclear => ?_⟩
    · rw [State.releaseOne_of_clear (h.mpr hclear)]
    · rw [State.releaseOne_of_not_clear ((bool_eq_false_iff h).mpr hclear)]
  refine ⟨fun r hr => ?_, fun w hw => ?_, fun hread hthrough => ?_, fun mark a hc ha => ?_, fun h => ?_⟩
  · exact hrelease (by rw [hr, State.lineClear_readWait_iff])
  · exact hrelease (by rw [hw, State.lineClear_throughWait_iff])
  · rw [State.releaseOne_of_not_clear]
    cases hc : s.context m with
    | readWait r st =>
      cases st with
      | inHold => exact absurd hc (hread r)
      | issued t => rfl
    | throughWait w st =>
      cases st with
      | inHold => exact absurd hc (hthrough w)
      | issued t => rfl
    | _ => rfl
  · have harea : s.syncArea m = some a := by
      obtain hj | ⟨hj, hd⟩ := ha
      · simp [State.syncArea, hj]
      · simp [State.syncArea, hj, hd]
    rw [State.completeSync_of_area hc harea, ← State.answerSync_eq]
    refine ⟨fun hpassed => ?_, fun hwaits => ?_⟩
    · rw [if_neg]
      rw [AreaRec.holdsBefore_iff]
      push Not
      exact hpassed
    · rw [if_pos ((AreaRec.holdsBefore_iff _ _).mpr hwaits)]
  · rw [State.completeSync_of_not h]

/-! ## The end of a soft reset -/

theorem exec_softResetEnd {s : State} (hreset : s.resetHeld = false) : exec .softResetEnd s = .next s.testSoftReset.arbitrate :=
  congrArg Host.Outcome.next (State.unlessReset_of_running hreset _)

theorem State.testSoftReset_of_not {s : State} (h : ¬ (s.mode = .shutdown ∧ s.softResetDone = true)) : s.testSoftReset = s := if_neg h

/-- Settles O37: with no BUSY tag the freed tags are all of them. -/
theorem softResetEnds : Obligations.SoftResetEnds := by
  intro s hreset ended
  have hended : (s.mode = .shutdown ∧ s.softResetDone = true) ↔ ended := and_congr_right fun _ => s.softResetDone_iff
  rw [exec_softResetEnd hreset]
  refine ⟨fun h => ?_, fun h => by rw [State.testSoftReset_of_not (mt hended.mp h)]⟩
  have htest : s.testSoftReset = s.finishSoftReset := if_pos (hended.mpr h)
  rw [htest, State.finishSoftReset, ← s.freeStale_tags h.right.right]
  rfl

/-! ## The ends of the long operations -/

theorem exec_detachCompletion {s : State} (hreset : s.resetHeld = false) (a : AreaId) :
    exec (.detachCompletion a) s = .next (s.endDetach a).testSoftReset.arbitrate :=
  congrArg Host.Outcome.next (State.unlessReset_of_running hreset _)

theorem exec_purgeEnd {s : State} (hreset : s.resetHeld = false) (a : AreaId) :
    exec (.purgeEnd a) s = .next ((s.endPurge a).endDetach a).testSoftReset.arbitrate :=
  congrArg Host.Outcome.next (State.unlessReset_of_running hreset _)

theorem exec_drainEnd {s : State} (hreset : s.resetHeld = false) (a : AreaId) :
    exec (.drainEnd a) s = .next (s.endDrainNow a) :=
  congrArg Host.Outcome.next (State.unlessReset_of_running hreset _)

/-- A command that ends with the test of R141 and the arbiter goes on as SOFT_RESET_END does from the state before them. -/
theorem goesOn_of_exec {s u : State} {c : Instr} (hexec : exec c s = .next u.testSoftReset.arbitrate) (hreset : u.resetHeld = false)
    (hmode : u.mode = s.mode) :
    ∃ t, exec c s = .next t ∧ exec .softResetEnd u = .next t ∧ (s.mode = .running → t = u.arbitrate) :=
  ⟨_, hexec, exec_softResetEnd hreset, fun h => by rw [State.testSoftReset_of_running (hmode.trans h)]⟩

theorem State.setMaster_setMaster (s : State) (m : MasterId) (r r' : MasterRec) :
    (s.setMaster m r).setMaster m r' = s.setMaster m r' := by
  simp [State.setMaster]

theorem State.setMaster_setArea (s : State) (m : MasterId) (r : MasterRec) (a : AreaId) (x : AreaRec) :
    (s.setMaster m r).setArea a x = (s.setArea a x).setMaster m r := rfl

theorem AreaRec.detached_of_detach {r : AreaRec} (h : r.pendingOp = some .detach) :
    r.detached = { r with state := .free, master := none, pendingOp := none, lastOutcome := .complete } := by
  unfold AreaRec.detached
  dsimp only
  rw [if_pos h]

theorem State.endPurge_of_passed {s : State} {a : AreaId} {mark : Nat} (hop : (s.area a).pendingOp = some (.purge mark))
    (h : ∀ e ∈ (s.area a).queue, mark ≤ e.place) : s.endPurge a = s.finishPurge a := by
  have hpassed : ¬ (s.area a).holdsBefore mark = true := by
    rw [AreaRec.holdsBefore_iff]
    push Not
    exact h
  rw [State.endPurge, hop]
  exact if_neg hpassed

theorem State.endPurge_of_not {s : State} {a : AreaId}
    (h : ∀ mark, (s.area a).pendingOp = some (.purge mark) → ¬ ∀ e ∈ (s.area a).queue, mark ≤ e.place) : s.endPurge a = s := by
  unfold State.endPurge
  split
  · next mark hop =>
    have hwaits := h mark hop
    push Not at hwaits
    exact if_pos ((AreaRec.holdsBefore_iff _ _).mpr hwaits)
  all_goals rfl

/-- The area's PURGE recorded as ended, in this state and with this operation to go on with (R114). -/
def State.purgeEnded (s : State) (a : AreaId) (state : AreaState) (op : Option LongOp) : State :=
  { s.setArea a { s.area a with pendingOp := op, lastOutcome := .complete, state := state } with events := s.events ||| 0x010#11 }

theorem State.purgeEnded_area_self (s : State) (a : AreaId) (state : AreaState) (op : Option LongOp) :
    (s.purgeEnded a state op).area a = { s.area a with pendingOp := op, lastOutcome := .complete, state := state } := by
  have h : (s.purgeEnded a state op).area a =
      (s.setArea a { s.area a with pendingOp := op, lastOutcome := .complete, state := state }).area a := rfl
  rw [h, State.setArea_area, if_pos rfl]

theorem State.purgeEnded_setArea (s : State) (a : AreaId) (state : AreaState) (op : Option LongOp) (r : AreaRec) :
    (s.purgeEnded a state op).setArea a r = { s.setArea a r with events := s.events ||| 0x010#11 } := by
  rw [← State.setArea_setArea s a { s.area a with pendingOp := op, lastOutcome := .complete, state := state } r]
  rfl

/-- The end of a PURGE by the area's state (R114, R138, R139). -/
theorem State.finishPurge_eq (s : State) (a : AreaId) : s.finishPurge a =
    if (s.area a).state = .halted then
      if s.mode = .shutdown then (s.purgeEnded a .halted none).beginDetach a .detach else s.purgeEnded a .joined none
    else s.purgeEnded a (s.area a).state (s.area a).opAfter := by
  have hended : (s.setArea a { s.area a with pendingOp := (s.area a).opAfter, lastOutcome := .complete }).raise .purged =
      s.purgeEnded a (s.area a).state (s.area a).opAfter := rfl
  unfold State.finishPurge
  dsimp only
  rw [hended, State.purgeEnded_area_self]
  dsimp only
  split
  · next hstate =>
    have hafter : (s.area a).opAfter = none := by simp [AreaRec.opAfter, hstate]
    rw [hafter, hstate]
    refine ite_congr rfl (fun _ => rfl) fun _ => ?_
    rw [State.purgeEnded_setArea]
    rfl
  · rfl

/-- The records when a detach has completed, with these flags set besides: FREE, without a master, and the operation COMPLETE (R17). -/
theorem State.endDetach_of_detach {s : State} {a : AreaId} {m : MasterId} (hm : (s.area a).master = some m)
    (hstate : (s.area a).state = .detaching) (hqueue : (s.area a).queue = []) (hop : (s.area a).pendingOp = some .detach) :
    s.endDetach a =
      { (s.setArea a { s.area a with state := .free, master := none, pendingOp := none, lastOutcome := .complete }).setMaster m
          { s.master m with detachingArea := none } with
        events := s.events ||| 0x008#11 } := by
  rw [State.endDetach_eq hstate hqueue hm, AreaRec.detached_of_detach hop]
  rfl

theorem State.purgeEnded_beginDetach {s : State} {a : AreaId} {m : MasterId} (hm : (s.area a).master = some m) :
    (s.purgeEnded a .halted none).beginDetach a .detach = (s.purgeEnded a .detaching (some .detach)).setMaster m
      { s.master m with joinedArea := none, detachingArea := some a } := by
  have hmaster : ((s.purgeEnded a .halted none).area a).master = some m := by rw [State.purgeEnded_area_self, hm]
  rw [State.beginDetach_of_master hmaster, State.purgeEnded_setArea, State.purgeEnded_area_self]
  rfl

theorem State.setMaster_self (s : State) (m : MasterId) : s.setMaster m (s.master m) = s := by
  simp [State.setMaster, State.master]

/-- An emptied area whose PURGE ended in DETACHING completes its detach in the same change (R114, R139). -/
theorem State.purgeEnded_endDetach {s : State} {a : AreaId} {m : MasterId} (hm : (s.area a).master = some m)
    (hqueue : (s.area a).queue = []) (joined detaching : Option AreaId) :
    ((s.purgeEnded a .detaching (some .detach)).setMaster m
        { s.master m with joinedArea := joined, detachingArea := detaching }).endDetach a =
      { (s.setArea a { s.area a with state := .free, master := none, pendingOp := none, lastOutcome := .complete }).setMaster m
          { s.master m with joinedArea := joined, detachingArea := none } with
        events := s.events ||| 0x018#11 } := by
  have harea : ((s.purgeEnded a .detaching (some .detach)).setMaster m
      { s.master m with joinedArea := joined, detachingArea := detaching }).area a =
        { s.area a with pendingOp := some .detach, lastOutcome := .complete, state := .detaching } := by
    rw [State.setMaster_area, State.purgeEnded_area_self]
  rw [State.endDetach_of_detach (m := m) (by rw [harea, hm]) (by rw [harea]) (by rw [harea, hqueue]) (by rw [harea]), harea]
  have hevents : s.events ||| 0x018#11 = s.events ||| 0x010#11 ||| 0x008#11 := by
    rw [BitVec.or_assoc]
    rfl
  have hmaster : (((s.purgeEnded a .detaching (some .detach)).setMaster m
      { s.master m with joinedArea := joined, detachingArea := detaching }).master m) =
        { s.master m with joinedArea := joined, detachingArea := detaching } := by
    rw [State.setMaster_master, if_pos rfl]
  rw [hmaster, hevents, State.setMaster_setArea, State.setMaster_setMaster, State.purgeEnded_setArea]
  rfl

section
variable {s : State} {a : AreaId} {mark : Nat}

/-- The end of a PURGE in the states of an area that do not go on to a detach (R114). -/
theorem State.endPurge_of_joined (hop : (s.area a).pendingOp = some (.purge mark)) (hpassed : ∀ e ∈ (s.area a).queue, mark ≤ e.place)
    (h : (s.area a).state = .joined ∨ (s.area a).state = .halted ∧ s.mode = .running) : s.endPurge a = s.purgeEnded a .joined none := by
  rw [State.endPurge_of_passed hop hpassed, State.finishPurge_eq]
  obtain hstate | ⟨hstate, hmode⟩ := h
  · have hafter : (s.area a).opAfter = none := by simp [AreaRec.opAfter, hstate]
    rw [if_neg (by simp [hstate]), hafter, hstate]
  · rw [if_pos hstate, if_neg (by simp [hmode])]

theorem State.endPurge_of_detaching (hop : (s.area a).pendingOp = some (.purge mark))
    (hpassed : ∀ e ∈ (s.area a).queue, mark ≤ e.place) (hstate : (s.area a).state = .detaching) :
    s.endPurge a = s.purgeEnded a .detaching (some .detach) := by
  have hafter : (s.area a).opAfter = some .detach := by simp [AreaRec.opAfter, hstate]
  rw [State.endPurge_of_passed hop hpassed, State.finishPurge_eq, if_neg (by simp [hstate]), hafter, hstate]

theorem State.endPurge_of_shutdown {m : MasterId} (hm : (s.area a).master = some m) (hop : (s.area a).pendingOp = some (.purge mark))
    (hpassed : ∀ e ∈ (s.area a).queue, mark ≤ e.place) (hstate : (s.area a).state = .halted) (hmode : s.mode = .shutdown) :
    s.endPurge a = (s.purgeEnded a .detaching (some .detach)).setMaster m
      { s.master m with joinedArea := none, detachingArea := some a } := by
  rw [State.endPurge_of_passed hop hpassed, State.finishPurge_eq, if_pos hstate, if_pos hmode, State.purgeEnded_beginDetach hm]

theorem State.endDrain_of_not (h : ∀ k, (s.area a).pendingOp ≠ some (.drain k)) : s.endDrain a = s := by
  unfold State.endDrain
  split
  · next hop => exact absurd hop (h _)
  all_goals rfl

theorem State.cutDrain_of_not (h : ∀ k, (s.area a).pendingOp ≠ some (.drain k)) : s.cutDrain a = s := by
  unfold State.cutDrain
  split
  · next hop => exact absurd hop (h _)
  all_goals rfl

theorem State.cutDrain_of_drain (hop : (s.area a).pendingOp = some (.drain mark)) : s.cutDrain a =
    { s.setArea a { s.area a with pendingOp := none, lastOutcome := .cutShort } with events := s.events ||| 0x020#11 } := by
  rw [State.cutDrain, hop]
  rfl

/-- DRAIN_END by the area's state (R130). -/
theorem State.endDrainNow_eq (s : State) (a : AreaId) :
    s.endDrainNow a = if (s.area a).state = .halted then s.cutDrain a else s.endDrain a := rfl

end

/-- Settles O36: each command's state before the test of R141 is written out, and goes on as SOFT_RESET_END does. -/
theorem longOperationsEnd : Obligations.LongOperationsEnd := by
  intro s a hreset r passed goesOn left
  have hdetach (u : State) (hu : s.endDetach a = u) (hur : u.resetHeld = s.resetHeld) (hum : u.mode = s.mode) :
      goesOn (.detachCompletion a) u :=
    goesOn_of_exec (hu ▸ exec_detachCompletion hreset a) (hur.trans hreset) hum
  have hpurge (u : State) (hu : (s.endPurge a).endDetach a = u) (hur : u.resetHeld = s.resetHeld) (hum : u.mode = s.mode) :
      goesOn (.purgeEnd a) u :=
    goesOn_of_exec (hu ▸ exec_purgeEnd hreset a) (hur.trans hreset) hum
  refine ⟨fun m hm hstate hqueue hop => ?_, fun h => hdetach s (State.endDetach_of_not h) rfl rfl, fun mark hop hpassed => ?_,
    fun hnot h => ?_, fun mark hop => ?_, fun h => ?_⟩
  · refine hdetach _ ?_ rfl rfl
    have hjoined : (if r.state = .halted then none else (s.master m).joinedArea) = (s.master m).joinedArea := by
      rw [if_neg (by simp [hstate])]
    simp only [left, hjoined]
    exact State.endDetach_of_detach hm hstate hqueue hop
  · intro ended
    have harea (state : AreaState) (op : Option LongOp) := s.purgeEnded_area_self a state op
    refine ⟨fun h => ?_, fun hstate hqueue => ?_, fun m hm => ⟨fun hstate hmode hqueue => ?_, fun h hqueue => ?_⟩⟩
    · refine hpurge (s.purgeEnded a .joined none) ?_ rfl rfl
      rw [State.endPurge_of_joined hop hpassed h, State.endDetach_of_not (.inl (by simp [harea]))]
    · refine hpurge (s.purgeEnded a .detaching (some .detach)) ?_ rfl rfl
      rw [State.endPurge_of_detaching hop hpassed hstate, State.endDetach_of_not (.inr (by rwa [harea]))]
    · refine hpurge ((s.purgeEnded a .detaching (some .detach)).setMaster m _) ?_ rfl rfl
      rw [State.endPurge_of_shutdown hm hop hpassed hstate hmode, State.endDetach_of_not (.inr (by rwa [State.setMaster_area, harea]))]
    · refine hpurge _ ?_ rfl rfl
      obtain hstate | ⟨hstate, hmode⟩ := h
      · have hself : s.purgeEnded a .detaching (some .detach) = (s.purgeEnded a .detaching (some .detach)).setMaster m
            { s.master m with joinedArea := (s.master m).joinedArea, detachingArea := (s.master m).detachingArea } :=
          (State.setMaster_self _ m).symm
        rw [State.endPurge_of_detaching hop hpassed hstate, hself, State.purgeEnded_endDetach hm hqueue]
        have hjoined : (if r.state = .halted then none else (s.master m).joinedArea) = (s.master m).joinedArea := by
          rw [if_neg (by simp [hstate])]
        simp only [left, hjoined]
        rfl
      · rw [State.endPurge_of_shutdown hm hop hpassed hstate hmode, State.purgeEnded_endDetach hm hqueue]
        have hjoined : (if r.state = .halted then none else (s.master m).joinedArea) = none := by rw [if_pos hstate]
        simp only [left, hjoined]
        rfl
  · refine hpurge s ?_ rfl rfl
    rw [State.endPurge_of_not hnot, State.endDetach_of_not h]
  · intro ended
    rw [exec_drainEnd hreset, State.endDrainNow_eq]
    refine ⟨fun hstate hpassed => ?_, fun hstate hpassed => ?_, fun hstate => ?_, fun hstate hwaits => ?_⟩
    · have hafter : r.opAfter = none := by simp [AreaRec.opAfter, hstate]
      rw [if_neg (by simp [r, hstate]), State.endDrain_of_passed hop hpassed, hafter]
      rfl
    · have hafter : r.opAfter = some .detach := by simp [AreaRec.opAfter, hstate]
      rw [if_neg (by simp [r, hstate]), State.endDrain_of_passed hop hpassed, hafter]
      rfl
    · rw [if_pos hstate, State.cutDrain_of_drain hop]
    · have hbefore : ∃ e ∈ (s.area a).queue, e.place < mark := by
        by_contra hnone
        push Not at hnone
        exact hwaits hnone
      rw [if_neg hstate, State.endDrain_of_waiting hop hbefore]
  · rw [exec_drainEnd hreset, State.endDrainNow_eq, State.cutDrain_of_not h, State.endDrain_of_not h, ite_self]

end Sys2Proof.Machine
end

section
/-! SOFT RESET: what it does to each area, and how its change ends (R137 to R141). -/

namespace Sys2Proof.Machine

/-! ## What a conversion leaves -/

/-- The areas of t are those of s but for what the issue of entries changes of them (R69). -/
def IssuedOnly (s t : State) : Prop :=
  ∀ b, t.area b = { s.area b with queue := (t.area b).queue } ∧ (t.area b).queue.map Entry.lasting = (s.area b).queue.map Entry.lasting

theorem IssuedOnly.of_areas {s t : State} (h : t.areas = s.areas) : IssuedOnly s t := fun b => by
  rw [State.area_of_areas h]
  exact ⟨rfl, rfl⟩

theorem IssuedOnly.trans {s t u : State} (h : IssuedOnly s t) (k : IssuedOnly t u) : IssuedOnly s u := fun b => by
  obtain ⟨harea, hlasting⟩ := h b
  obtain ⟨karea, klasting⟩ := k b
  exact ⟨by rw [karea, harea], klasting.trans hlasting⟩

theorem IssuedOnly.issue (s : State) (c : Claimant) (x : TagId) : IssuedOnly s (s.issue c x) := (s.issue_spec c x).left

theorem IssuedOnly.empty {s t : State} (h : IssuedOnly s t) {a : AreaId} (hqueue : (s.area a).queue = []) : t.area a = s.area a := by
  obtain ⟨harea, hlasting⟩ := h a
  have hempty : (t.area a).queue = [] := by
    rw [hqueue, List.map_nil, List.map_eq_nil_iff] at hlasting
    exact hlasting
  rw [harea, hempty, ← hqueue]

theorem IssuedOnly.nonempty {s t : State} (h : IssuedOnly s t) {a : AreaId} (hqueue : (s.area a).queue ≠ []) :
    (t.area a).queue ≠ [] := fun hempty => by
  obtain ⟨-, hlasting⟩ := h a
  rw [hempty, List.map_nil, eq_comm, List.map_eq_nil_iff] at hlasting
  exact hqueue hlasting

theorem State.takeThrough_issuedOnly (s : State) (m : MasterId) (line : Line) (mask : Mask) (data : LineData) :
    IssuedOnly s (s.takeThrough m line mask data) := by
  have hmarked : IssuedOnly s (s.markThrough m) := .of_areas (by simp)
  unfold State.takeThrough
  dsimp only
  split
  · exact hmarked.trans (.of_areas rfl)
  · exact State.enterHold_induct (P := IssuedOnly s) m (hmarked.trans (.of_areas rfl)) (fun _ _ hu => hu.trans (.of_areas rfl))
      (fun u c x hu _ _ => hu.trans (.issue u c x)) fun u hu => hu.trans (.of_areas rfl)

theorem State.convertWaiting_issuedOnly (s : State) (m : MasterId) : IssuedOnly s (s.convertWaiting m) := by
  unfold State.convertWaiting
  split
  · exact s.takeThrough_issuedOnly m _ _ _
  all_goals exact .of_areas rfl

/-! ## One area -/

theorem State.enlist_area_self (s : State) (a : AreaId) : (s.enlist a).area a = { s.area a with inShutdown := true } := by
  simp [State.enlist]

theorem State.enlist_area_of_ne (s : State) {a b : AreaId} (h : b ≠ a) : (s.enlist a).area b = s.area b := by
  simp [State.enlist, h]

section
variable {s : State} {a : AreaId}

theorem State.shutArea_of_free (h : (s.area a).state = .free) : s.shutArea a = s := by
  rw [State.shutArea, h]

theorem State.shutArea_of_detaching (h : (s.area a).state = .detaching) : s.shutArea a = s.enlist a := by
  rw [State.shutArea, h]

theorem State.shutArea_of_joined (h : (s.area a).state = .joined) : s.shutArea a = ((s.enlist a).detachArea a).endDetach a := by
  rw [State.shutArea, h]

theorem State.shutArea_of_purging (h : (s.area a).state = .halted) (hop : ∃ mark, (s.area a).pendingOp = some (.purge mark)) :
    s.shutArea a = s.enlist a := by
  rw [State.shutArea, h]
  exact if_pos ((AreaRec.purgePending_iff _).mpr hop)

theorem State.shutArea_of_halted (h : (s.area a).state = .halted) (hop : ¬ ∃ mark, (s.area a).pendingOp = some (.purge mark)) :
    s.shutArea a = ((s.enlist a).beginPurge a).settleArea a := by
  rw [State.shutArea, h]
  exact if_neg (mt (AreaRec.purgePending_iff _).mp hop)

/-- A JOINED area under SOFT RESET, with its master's waiting write decided again before the end of the detach is tested (R29, R138). -/
theorem State.detachArea_enlist {m : MasterId} (hm : (s.area a).master = some m) : (s.enlist a).detachArea a =
    ((s.setArea a { s.area a with
        inShutdown := true, state := .detaching, pendingOp := some ((s.area a).pendingOp.getD .detach) }).setMaster m
      { s.master m with joinedArea := none, detachingArea := some a }).convertWaiting m := by
  have hmaster : ((s.enlist a).area a).master = some m := by rw [State.enlist_area_self, hm]
  rw [State.detachArea_of_master hmaster, State.beginDetach_of_master hmaster, State.enlist_area_self, State.enlist,
    State.setArea_setArea]
  rfl

/-- The changes of a soft reset to one area leave the others but for the issue of their entries (R138; log 22). -/
theorem State.shutArea_issuedOnly {b : AreaId} (hb : b ≠ a) :
    (s.shutArea a).area b = { s.area b with queue := ((s.shutArea a).area b).queue } ∧
      ((s.shutArea a).area b).queue.map Entry.lasting = (s.area b).queue.map Entry.lasting := by
  have hsame {t : State} (h : t.area b = s.area b) :
      t.area b = { s.area b with queue := (t.area b).queue } ∧ (t.area b).queue.map Entry.lasting = (s.area b).queue.map Entry.lasting := by
    rw [h]
    exact ⟨rfl, rfl⟩
  have henlist := s.enlist_area_of_ne hb
  cases hstate : (s.area a).state with
  | free => exact hsame (by rw [State.shutArea_of_free hstate])
  | detaching => exact hsame (by rw [State.shutArea_of_detaching hstate, henlist])
  | halted =>
    by_cases hop : ∃ mark, (s.area a).pendingOp = some (.purge mark)
    · exact hsame (by rw [State.shutArea_of_purging hstate hop, henlist])
    · refine hsame ?_
      rw [State.shutArea_of_halted hstate hop, State.settleArea_area_of_ne _ _ _ hb, State.beginPurge,
        State.dropEntries_area_of_ne _ _ _ _ _ hb, State.setArea_area, if_neg hb, henlist]
  | joined =>
    rw [State.shutArea_of_joined hstate, State.endDetach_area_of_ne _ _ _ hb]
    have hbegin (op : LongOp) : ((s.enlist a).beginDetach a op).area b = s.area b := by
      rw [State.beginDetach_area, if_neg hb, henlist]
    unfold State.detachArea
    dsimp only
    split
    · exact hsame (hbegin _)
    · next m _ =>
      have h := State.convertWaiting_issuedOnly ((s.enlist a).beginDetach a (((s.enlist a).area a).pendingOp.getD .detach)) m b
      rwa [hbegin] at h

end

/-- Settles O51, by the area's state. -/
theorem softResetTakesArea : Obligations.SoftResetTakesArea := by
  intro s a marked
  refine ⟨State.shutArea_of_free, State.shutArea_of_detaching, fun mark hstate hop => State.shutArea_of_purging hstate ⟨mark, hop⟩,
    fun hstate hop => ?_, fun m hstate hm => ?_, fun b hb => State.shutArea_issuedOnly hb⟩
  · intro purging
    rw [State.shutArea_of_halted hstate (by push Not; exact hop), State.beginPurge, State.enlist_area_self, State.enlist,
      State.setArea_setArea]
    rfl
  · intro left
    have hcontext : left.context m = s.context m := by simp [left, State.context]
    have harea : left.area a = { s.area a with
        inShutdown := true, state := .detaching, pendingOp := some ((s.area a).pendingOp.getD .detach) } := by simp [left]
    have hkept := left.convertWaiting_issuedOnly m
    have hshut : s.shutArea a = (left.convertWaiting m).endDetach a := by
      rw [State.shutArea_of_joined hstate, State.detachArea_enlist hm]
    refine ⟨left.convertWaiting m, fun hnot => State.convertWaiting_of_not_posting (by rwa [hcontext]),
      fun w hw => State.convertWaiting_of_posting (hcontext.trans hw), fun hqueue => ?_, fun hqueue hop => ?_⟩
    · rw [hshut, State.endDetach_of_not (.inr (hkept.nonempty (by rwa [harea])))]
    · have hsame : (left.convertWaiting m).area a = left.area a := hkept.empty (by rw [harea, hqueue])
      rw [hop, Option.getD_none] at harea
      rw [hshut, State.endDetach_of_detach (m := m) (by rw [hsame, harea, hm]) (by rw [hsame, harea]) (by rw [hsame, harea, hqueue])
        (by rw [hsame, harea]), hsame, harea]

/-! ## The command -/

theorem exec_softReset (s : State) : exec .softReset s = execSoftReset s := rfl

theorem execSoftReset_of_running {s : State} (hrun : s.takesInRunning) :
    execSoftReset s = .next ((s.beginShutdown.conclude s.responses.length).taken 1 .accepted []) := by
  rw [execSoftReset, State.runningCommand_eq hrun, State.accepted_close]

/-- With every area FREE a soft reset changes the mode alone before its end is tested (R137). -/
theorem State.beginShutdown_of_free {s : State} (h : ∀ a, (s.area a).state = .free) : s.beginShutdown = { s with mode := .shutdown } :=
  foldl_keeps (P := fun u : State => u = { s with mode := .shutdown }) State.shutArea allAreas { s with mode := .shutdown } rfl
    fun u a _ hu => by
      subst hu
      exact State.shutArea_of_free (h a)

theorem State.beginShutdown_mode (s : State) : s.beginShutdown.mode = .shutdown :=
  foldl_keeps (P := fun u : State => u.mode = .shutdown) State.shutArea allAreas { s with mode := .shutdown } rfl
    fun u a _ hu => by simpa using hu

/-- A BUSY tag stays so while requests enter the Hold List and grants are made (R65). -/
theorem State.takeThrough_tag_of_busy {s : State} {t : TagId} {tr : Transaction} (h : s.tag t = .busy tr) (m : MasterId) (line : Line)
    (mask : Mask) (data : LineData) : (s.takeThrough m line mask data).tag t = .busy tr := by
  have hmarked : (s.markThrough m).tag t = .busy tr := by simpa using h
  unfold State.takeThrough
  dsimp only
  split
  · exact hmarked
  · refine State.enterHold_induct (P := fun u => u.tag t = .busy tr) m hmarked (fun _ _ hu => hu) (fun u c x hu hx _ => ?_) fun _ hu => hu
    obtain ⟨-, -, htags, -⟩ := u.issue_spec c x
    have hne : t ≠ x := by
      rintro rfl
      obtain ⟨hfree, -⟩ := State.lowestFree_eq_some.mp hx
      cases hfree.symm.trans hu
    rw [htags t hne, hu]

theorem State.shutArea_tag_of_busy {s : State} {t : TagId} {tr : Transaction} (h : s.tag t = .busy tr) (a : AreaId) :
    (s.shutArea a).tag t = .busy tr := by
  have henlist : (s.enlist a).tag t = .busy tr := h
  cases hstate : (s.area a).state with
  | free => rwa [State.shutArea_of_free hstate]
  | detaching => rwa [State.shutArea_of_detaching hstate]
  | halted =>
    by_cases hop : ∃ mark, (s.area a).pendingOp = some (.purge mark)
    · rwa [State.shutArea_of_purging hstate hop]
    · rw [State.shutArea_of_halted hstate hop]
      simpa using h
  | joined =>
    have hbegin (op : LongOp) : ((s.enlist a).beginDetach a op).tag t = .busy tr := by simpa using h
    have hconvert (op : LongOp) (m : MasterId) : (((s.enlist a).beginDetach a op).convertWaiting m).tag t = .busy tr := by
      unfold State.convertWaiting
      split
      · exact State.takeThrough_tag_of_busy (hbegin op) m _ _ _
      all_goals exact hbegin op
    have hdetach : ((s.enlist a).detachArea a).tag t = .busy tr := by
      unfold State.detachArea
      dsimp only
      split
      · exact hbegin _
      · exact hconvert _ _
    rw [State.shutArea_of_joined hstate]
    simpa using hdetach

theorem State.beginShutdown_tag_of_busy {s : State} {t : TagId} {tr : Transaction} (h : s.tag t = .busy tr) :
    s.beginShutdown.tag t = .busy tr :=
  foldl_keeps (P := fun u : State => u.tag t = .busy tr) State.shutArea allAreas { s with mode := .shutdown } h
    fun _ a _ hu => State.shutArea_tag_of_busy hu a

theorem State.taken_mode (s : State) (bytes : Nat) (status : Status) (reply : List Byte) : (s.taken bytes status reply).mode = s.mode := rfl

/-- Settles O50: with every area FREE and no BUSY tag the end of the change ends the soft reset, and a BUSY tag prevents it. -/
theorem softResetTaken : Obligations.SoftResetTaken := by
  intro s hrun
  have hexec := execSoftReset_of_running hrun
  refine ⟨hexec, fun hfree hidle => ⟨_, hexec, ?_⟩, fun ⟨t, ht⟩ => ⟨_, hexec, ?_⟩⟩
  · have hbegin := State.beginShutdown_of_free hfree
    have hended : (s.beginShutdown.releaseHolds.orderAnswers s.responses.length).testSoftReset =
        (s.beginShutdown.releaseHolds.orderAnswers s.responses.length).finishSoftReset := by
      refine if_pos ⟨by simp [hbegin], (State.softResetDone_iff _).mpr ⟨fun a => ?_, fun t => ?_⟩⟩
      · have harea : s.beginShutdown.area a = s.area a := by rw [hbegin]; rfl
        simpa [harea] using hfree a
      · have htag : s.beginShutdown.tag t = s.tag t := by rw [hbegin]; rfl
        simpa [htag] using hidle t
    have hconclude : s.beginShutdown.conclude s.responses.length =
        (s.beginShutdown.releaseHolds.orderAnswers s.responses.length).finishSoftReset.arbitrate := by rw [State.conclude, hended]
    rw [hconclude]
    refine ⟨?_, ?_, ?_⟩
    · simp [State.finishSoftReset, State.raise]
    · simp [State.finishSoftReset, State.raise, State.eventSet, Event.flag, Event.bit]
    · simp [State.finishSoftReset, State.raise, State.softRecord]
  · obtain ⟨tr, htr⟩ := (TagState.isBusy_iff _).mp ht
    have hbusy : (s.beginShutdown.releaseHolds.orderAnswers s.responses.length).tag t = .busy tr := by
      simpa using State.beginShutdown_tag_of_busy htr
    have hnot : (s.beginShutdown.releaseHolds.orderAnswers s.responses.length).testSoftReset =
        s.beginShutdown.releaseHolds.orderAnswers s.responses.length := by
      refine State.testSoftReset_of_not fun ⟨_, hdone⟩ => ?_
      obtain ⟨-, hidle⟩ := (State.softResetDone_iff _).mp hdone
      simpa [hbusy, TagState.isBusy] using hidle t
    have hmode : (s.beginShutdown.conclude s.responses.length).mode = .shutdown := by
      rw [State.conclude, hnot]
      simpa using s.beginShutdown_mode
    exact (State.taken_mode _ _ _ _).trans hmode

end Sys2Proof.Machine
end

section
/-! No part of a change clears a flag of the Event Set: the handling of a result, the end of a change, the expiry of a tag (R131). -/

namespace Sys2Proof.Machine

/-- Every flag that is set in s is set in t. -/
def KeepsFlags (s t : State) : Prop := ∀ e : Event, s.eventSet e = true → t.eventSet e = true

namespace KeepsFlags

theorem of_or {s t : State} {w : EventWord} (h : t.events = s.events ||| w) : KeepsFlags s t := fun e he => by
  unfold State.eventSet at he ⊢
  rw [h, BitVec.getLsbD_or, he, Bool.true_or]

theorem of_events {s t : State} (h : t.events = s.events) : KeepsFlags s t := fun e he => by
  rwa [State.eventSet, h]

theorem refl (s : State) : KeepsFlags s s := of_events rfl

theorem trans {s t u : State} (h : KeepsFlags s t) (k : KeepsFlags t u) : KeepsFlags s u := fun e he => k e (h e he)

theorem raise (s : State) (e : Event) : KeepsFlags s (s.raise e) := of_or rfl

/-! ## The Fault Unit -/

theorem makeRecord (s : State) (r : FaultRecord) : KeepsFlags s (s.makeRecord r) := by
  by_cases h : s.faultLog.length < 16
  · rw [State.makeRecord_of_room r h]
    exact of_or rfl
  · rw [State.makeRecord_of_full r h, State.loseRecord_eq]
    exact (of_or (t := { s with recordCounter := s.recordCounter + 1, events := s.events ||| 0x001#11 }) rfl).trans (of_or rfl)

theorem dropEntries (s : State) (a : AreaId) (cause : FaultCause) (drop : Entry → Bool) : KeepsFlags s (s.dropEntries a cause drop) := by
  have hcharge (u : State) (m : MasterId) (count : Nat) (line : Line) : (u.charge m count line cause).events = u.events := by simp
  have hqueue : KeepsFlags s (s.setQueue a ((s.area a).queue.filter fun x => !drop x)) := of_events rfl
  unfold State.dropEntries
  split
  · exact (hqueue.trans (makeRecord _ _)).trans (of_events (hcharge _ _ _ _))
  · exact refl s

theorem cutDrain (s : State) (a : AreaId) : KeepsFlags s (s.cutDrain a) := by
  unfold State.cutDrain
  split
  · exact (of_events rfl).trans (raise _ _)
  all_goals exact refl s

theorem haltArea (s : State) (a : AreaId) : KeepsFlags s (s.haltArea a) := by
  have hbegin : KeepsFlags s ((s.setArea a { s.area a with state := .halted }).raise .halt) := (of_events rfl).trans (raise _ _)
  unfold State.haltArea
  dsimp only
  exact (hbegin.trans (cutDrain _ a)).trans (of_events (by simp))

theorem applyPolicy (s : State) (a : AreaId) : KeepsFlags s (s.applyPolicy a) := by
  unfold State.applyPolicy
  split
  · exact refl s
  · split
    · exact haltArea s a
    · exact refl s
  · exact dropEntries s a _ _

theorem escalateArea (s : State) (a : AreaId) : KeepsFlags s (s.escalateArea a) := by
  rw [State.escalateArea_eq]
  split
  · exact of_or rfl
  · exact refl s

theorem recordFailure (s : State) (a : AreaId) (m : MasterId) (e : Entry) (how : Failure) : KeepsFlags s (s.recordFailure a m e how) := by
  have hmade := makeRecord s ((s.area a).failureRecord a m e how.cause)
  unfold State.recordFailure
  dsimp only
  split
  · exact hmade.trans (of_events (by simp))
  · exact hmade.trans (of_events (by simp))

theorem finalFailure (s : State) (a : AreaId) (e : Entry) (how : Failure) : KeepsFlags s (s.finalFailure a e how) := by
  unfold State.finalFailure
  split
  · exact of_events rfl
  · exact ((recordFailure s a _ e how).trans (applyPolicy _ a)).trans (escalateArea _ a)

/-! ## The news of a retirement and the end of a change -/

theorem beginDetach (s : State) (a : AreaId) (op : LongOp) : KeepsFlags s (s.beginDetach a op) := of_events (by simp)

theorem endDrain (s : State) (a : AreaId) : KeepsFlags s (s.endDrain a) := by
  unfold State.endDrain
  split
  · split
    · exact refl s
    · exact (of_events rfl).trans (raise _ _)
  all_goals exact refl s

theorem finishPurge (s : State) (a : AreaId) : KeepsFlags s (s.finishPurge a) := by
  have hended (state : AreaState) (op : Option LongOp) : KeepsFlags s (s.purgeEnded a state op) := of_or rfl
  rw [State.finishPurge_eq]
  split
  · split
    · exact (hended _ _).trans (beginDetach _ a _)
    · exact hended _ _
  · exact hended _ _

theorem endPurge (s : State) (a : AreaId) : KeepsFlags s (s.endPurge a) := by
  unfold State.endPurge
  split
  · split
    · exact refl s
    · exact finishPurge s a
  all_goals exact refl s

theorem endDetach (s : State) (a : AreaId) : KeepsFlags s (s.endDetach a) := by
  unfold State.endDetach
  dsimp only
  split
  · refine KeepsFlags.trans (of_events ?_) (raise _ _)
    split <;> rfl
  · exact refl s

theorem settleArea (s : State) (a : AreaId) : KeepsFlags s (s.settleArea a) := by
  have hsettled : KeepsFlags s ((s.retryPosting a).settleSync a) := of_events (by simp)
  exact ((hsettled.trans (endDrain _ a)).trans (endPurge _ a)).trans (endDetach _ a)

theorem testSoftReset (s : State) : KeepsFlags s s.testSoftReset := by
  unfold State.testSoftReset
  split
  · exact of_or rfl
  · exact refl s

theorem arbitrate (s : State) : KeepsFlags s s.arbitrate := of_events (by simp)

theorem conclude (s : State) (n : Nat) : KeepsFlags s (s.conclude n) := by
  have hordered : KeepsFlags s (s.releaseHolds.orderAnswers n) := of_events (by simp)
  exact (hordered.trans (testSoftReset _)).trans (arbitrate _)

/-! ## Results and expiries -/

theorem attemptFailed (s : State) (a : AreaId) (e : Entry) (how : Failure) : KeepsFlags s (s.attemptFailed a e how) := by
  unfold State.attemptFailed
  split
  · exact (finalFailure s a e how).trans (settleArea _ a)
  · split
    · exact (of_events (t := (s.removeEntry a e.place).answerStrict a e.place (.error .halted)) (by simp)).trans (settleArea _ a)
    · exact of_events rfl

theorem retireDone (s : State) (a : AreaId) (e : Entry) : KeepsFlags s (s.retireDone a e) := by
  unfold State.retireDone
  dsimp only
  split
  · exact (of_events (t := (s.removeEntry a e.place).answerStrict a e.place .okay) (by simp)).trans (settleArea _ a)
  · exact (of_events (t := s.removeEntry a e.place) rfl).trans (settleArea _ a)

theorem requestFailed (s : State) (m : MasterId) (how : Failure) : KeepsFlags s (s.requestFailed m how) := by
  unfold State.requestFailed
  split
  · exact (makeRecord s _).trans (of_events rfl)
  · exact of_events rfl
  all_goals exact refl s

theorem handResult (s : State) (user : TagUser) (result : MemResult) (data : LineData) :
    KeepsFlags s (s.handResult user result data) := by
  unfold State.handResult
  split
  · split
    · exact refl s
    · split
      · exact retireDone s _ _
      · exact attemptFailed s _ _ _
  · split
    · exact of_events (by simp)
    · exact requestFailed s _ _

theorem markStale (s : State) : KeepsFlags s s.markStale := by
  unfold State.markStale
  split
  · exact (raise s _).trans (raise _ _)
  · exact raise s _

theorem expireTag (s : State) (t : TagId) (tr : Transaction) : KeepsFlags s (s.expireTag t tr) :=
  (((of_events (t := s.setTag t (.stale tr.user.isEntry)) rfl).trans (markStale _)).trans (handResult _ _ _ _)).trans (conclude _ _)

theorem expireIfDue (s : State) (t : TagId) : KeepsFlags s (s.expireIfDue t) := by
  unfold State.expireIfDue
  split
  · split
    · exact expireTag s t _
    · exact refl s
  all_goals exact refl s

end KeepsFlags

theorem State.eventSet_raise (s : State) (e : Event) : (s.raise e).eventSet e = true := by
  unfold State.raise State.eventSet
  cases e <;> simp [Event.flag, Event.bit]

/-- Each expiry sets STALE (R85). -/
theorem State.expireTag_stale (s : State) (t : TagId) (tr : Transaction) : (s.expireTag t tr).eventSet .stale = true := by
  have hmarked : ((s.setTag t (.stale tr.user.isEntry)).markStale).eventSet .stale = true := by
    unfold State.markStale
    split
    · exact KeepsFlags.raise _ _ _ (State.eventSet_raise _ _)
    · exact State.eventSet_raise _ _
  exact KeepsFlags.conclude _ _ _ (KeepsFlags.handResult _ _ _ _ _ hmarked)

/-- A timer that is due sets STALE as the due timers expire (R77, R85). -/
theorem State.expireDue_stale {s : State} {t : TagId} {tr : Transaction} (h : s.tag t = .busy tr) (hdue : tr.deadline ≤ s.now) :
    s.expireDue.eventSet .stale = true := by
  have hfold (l : List TagId) (u : State) (hnow : u.now = s.now) (hu : t ∈ l ∧ u.tag t = .busy tr ∨ u.eventSet .stale = true) :
      (l.foldl State.expireIfDue u).eventSet .stale = true := by
    induction l generalizing u with
    | nil => exact hu.resolve_left fun ⟨hmem, _⟩ => List.not_mem_nil hmem
    | cons x l ih =>
      refine ih _ ((u.expireIfDue_now x).trans hnow) ?_
      obtain ⟨hmem, htag⟩ | hset := hu
      · by_cases hx : x = t
        · subst hx
          refine .inr ?_
          rw [State.expireIfDue, htag]
          dsimp only
          rw [if_pos (hnow ▸ hdue)]
          exact u.expireTag_stale x tr
        · refine .inl ⟨(List.mem_cons.mp hmem).resolve_left (Ne.symm hx), ?_⟩
          unfold State.expireIfDue
          split
          · split
            · exact State.expireTag_tag_of_ne _ _ _ _ _ (Ne.symm hx) htag
            · exact htag
          all_goals exact htag
      · exact .inr (KeepsFlags.expireIfDue u x _ hset)
  exact hfold allTags s rfl (.inl ⟨mem_allTags t, h⟩)

end Sys2Proof.Machine
end

section
/-! Time: the timers that run out in one microsecond, the linger timer, and the expiry of one tag (R60, R77, R84, R85). -/

namespace Sys2Proof.Machine

/-! ## An empty queue -/

theorem step_of_empty {s : State} (h : s.pending = []) : step s = .next s.tick := by
  rw [step, h]

theorem State.tick_of_resetHeld {s : State} (h : s.resetHeld = true) : s.tick = { s with now := s.now + 1 } := by
  rw [State.tick, if_pos h]

theorem State.tick_of_released {s : State} (h : s.resetHeld = false) : s.tick = s.moveOn.expireDue.arbitrate := by
  rw [State.tick, if_neg (by simp [h])]

/-! ## Timers that are due -/

theorem KeepsFlags.expireDue (s : State) : KeepsFlags s s.expireDue :=
  State.expireDue_induct (P := KeepsFlags s) s (KeepsFlags.refl s) fun u t tr hu _ _ => hu.trans (KeepsFlags.expireTag u t tr)

/-- In RUNNING mode a STALE tag stays so while timers expire. -/
theorem State.expireDue_tag_of_stale {s : State} {x : TagId} {b : Bool} (hrun : s.mode = .running) (hstale : s.tag x = .stale b) :
    s.expireDue.tag x = .stale b := by
  refine (State.expireDue_induct (P := fun u => u.mode = .running ∧ u.tag x = .stale b) s ⟨hrun, hstale⟩ ?_).2
  rintro u t tr ⟨hmode, htag⟩ hbusy _
  have hne : x ≠ t := fun hx => by
    rw [← hx, htag] at hbusy
    cases hbusy
  exact ⟨u.expireTag_mode_of_running t tr hmode, State.expireTag_tag_of_stale hmode hne htag⟩

theorem State.expireDue_mode_of_running {s : State} (hrun : s.mode = .running) : s.expireDue.mode = .running :=
  State.expireDue_induct (P := fun u => u.mode = .running) s hrun fun u t tr hu _ _ => u.expireTag_mode_of_running t tr hu

/-- The move of the clock changes nothing but the clock once the timers that are due have expired. -/
theorem State.moveOn_rest (s : State) :
    s.moveOn.events = s.expireDue.events ∧ s.moveOn.mode = s.expireDue.mode ∧ ∀ x, s.moveOn.tag x = s.expireDue.tag x := by
  unfold State.moveOn
  generalize s.expireDue = u
  exact ⟨rfl, rfl, fun _ => rfl⟩

/-- A timer whose end is the next microsecond or has passed expires within it (R77): at the move of the clock, or right after it. -/
theorem State.tick_of_due {s : State} {t : TagId} {tr : Transaction} (hreset : s.resetHeld = false) (htag : s.tag t = .busy tr)
    (hdue : tr.deadline ≤ s.now + 1) :
    s.tick.eventSet .stale = true ∧ (s.mode = .running → s.tick.tag t = .stale tr.user.isEntry) := by
  have harbiter {u : State} (hstale : u.tag t = .stale tr.user.isEntry) : u.arbitrate.tag t = .stale tr.user.isEntry := by
    rw [State.arbitrate_tag_of_not_free u t (by simp [hstale]), hstale]
  obtain ⟨hevents, hmode, htags⟩ := s.moveOn_rest
  have hmode (hrun : s.mode = .running) : s.moveOn.mode = .running := hmode.trans (State.expireDue_mode_of_running hrun)
  rw [State.tick_of_released hreset]
  by_cases hpast : tr.deadline ≤ s.now
  · have hmoved : KeepsFlags s.expireDue s.moveOn := KeepsFlags.of_events hevents
    refine ⟨(hmoved.trans (KeepsFlags.expireDue _)).trans (KeepsFlags.arbitrate _) _ (State.expireDue_stale htag hpast),
      fun hrun => harbiter (State.expireDue_tag_of_stale (hmode hrun) ?_)⟩
    rw [htags, State.expireDue_of_due htag hpast hrun]
  · have hkept : s.moveOn.tag t = .busy tr := State.moveOn_tag htag (by omega)
    have hdue : tr.deadline ≤ s.moveOn.now := s.moveOn_now ▸ hdue
    exact ⟨KeepsFlags.arbitrate _ _ (State.expireDue_stale hkept hdue),
      fun hrun => harbiter (State.expireDue_of_due hkept hdue (hmode hrun))⟩

/-! ## One timer alone -/

theorem State.finishSoftReset_tag (s : State) (x : TagId) : s.finishSoftReset.tag x = (s.tag x).recovered := s.freeStale_tag x

theorem TagState.recovered_eq_busy {v : TagState} {y : Transaction} (h : v.recovered = .busy y) : v = .busy y := by
  cases v <;> simp_all [TagState.recovered]

theorem State.testSoftReset_tag_eq_busy {s : State} {x : TagId} {y : Transaction} (h : s.testSoftReset.tag x = .busy y) :
    s.tag x = .busy y := by
  unfold State.testSoftReset at h
  split at h
  · exact TagState.recovered_eq_busy (s.finishSoftReset_tag x ▸ h)
  · exact h

theorem State.testSoftReset_timeout {s : State} (h : 1 ≤ s.timeout) : 1 ≤ s.testSoftReset.timeout := by
  unfold State.testSoftReset
  split
  · exact Nat.le_add_left 1 499
  · exact h

/-- A timer that runs after the expiry of another either ran before it or has been started by the arbiter, with the timeout in force. -/
theorem State.expireTag_timers {s : State} {t : TagId} {tr : Transaction} (htimeout : 1 ≤ s.timeout) {x : TagId} {y : Transaction}
    (h : (s.expireTag t tr).tag x = .busy y) : x ≠ t ∧ s.tag x = .busy y ∨ s.now < y.deadline := by
  unfold State.expireTag State.conclude at h
  obtain hold | ⟨hstarted, hlength⟩ := State.arbitrate_timers _ x y h
  · left
    have hold := State.testSoftReset_tag_eq_busy hold
    by_cases hx : x = t
    · simp [hx] at hold
    · exact ⟨hx, by simpa [hx] using hold⟩
  · right
    have hpositive : 1 ≤ y.timeout := hlength ▸ State.testSoftReset_timeout (by simpa using htimeout)
    have hstarted : y.started = s.now := by simpa using hstarted
    rw [Transaction.deadline]
    omega

/-- Where one timer alone is due, and the arbiter starts none that is due at once, the timers that are due expire as this one does. -/
theorem State.expireDue_of_one {s : State} {t : TagId} {tr : Transaction} (htag : s.tag t = .busy tr) (hdue : tr.deadline ≤ s.now)
    (hothers : ∀ x, x ≠ t → ∀ y, s.tag x = .busy y → s.now < y.deadline) (htimeout : 1 ≤ s.timeout) :
    s.expireDue = s.expireTag t tr := by
  have hafter (x : TagId) : (s.expireTag t tr).expireIfDue x = s.expireTag t tr := by
    refine State.expireIfDue_of_not_due fun y hy => ?_
    rw [State.expireTag_now]
    obtain ⟨hx, hold⟩ | hnew := State.expireTag_timers htimeout hy
    · exact hothers x hx y hold
    · exact hnew
  have hfold (l : List TagId) (u : State) (hu : t ∈ l ∧ u = s ∨ u = s.expireTag t tr) :
      l.foldl State.expireIfDue u = s.expireTag t tr := by
    induction l generalizing u with
    | nil => exact hu.resolve_left fun ⟨hmem, _⟩ => List.not_mem_nil hmem
    | cons x l ih =>
      refine ih _ ?_
      obtain ⟨hmem, rfl⟩ | rfl := hu
      · by_cases hx : x = t
        · subst hx
          rw [State.expireIfDue, htag]
          exact .inr (if_pos hdue)
        · exact .inl ⟨(List.mem_cons.mp hmem).resolve_left (Ne.symm hx), State.expireIfDue_of_not_due (hothers x hx)⟩
      · exact .inr (hafter x)
  exact hfold allTags s (.inl ⟨mem_allTags t, rfl⟩)

theorem exec_expiry (t : TagId) (s : State) : exec (.expiry t) s = execExpiry t s := rfl

theorem execExpiry_of_running {s : State} (hreset : s.resetHeld = false) (t : TagId) : execExpiry t s = .next (s.runOut t) := by
  rw [execExpiry, State.unlessReset_of_running hreset]

theorem State.runOut_of_busy {s : State} {t : TagId} {tr : Transaction} (htag : s.tag t = .busy tr) :
    s.runOut t = (s.reach tr.deadline).expireTag t tr := by
  rw [State.runOut, htag]

/-- The end of a change leaves the arbiter nothing to do. -/
theorem State.arbitrate_expireTag (s : State) (t : TagId) (tr : Transaction) : (s.expireTag t tr).arbitrate = s.expireTag t tr :=
  State.arbitrate_of_done (State.arbitrate_done _)

/-- A microsecond at whose end one timer alone runs out does what its expiry does. -/
theorem State.tick_of_one {s : State} {t : TagId} {tr : Transaction} (hreset : s.resetHeld = false) (htimeout : 1 ≤ s.timeout)
    (htag : s.tag t = .busy tr) (hend : tr.deadline = s.now + 1)
    (hothers : ∀ x, x ≠ t → ∀ y, s.tag x = .busy y → s.now + 1 < y.deadline) : s.tick = s.runOut t := by
  have hnone : ∀ x y, s.tag x = .busy y → s.now < y.deadline := fun x y hy => by
    by_cases hx : x = t
    · subst hx
      rw [htag] at hy
      cases hy
      omega
    · exact Nat.lt_of_succ_lt (hothers x hx y hy)
  have hmoved : s.moveOn = { s with now := s.now + 1 } := State.moveOn_of_none_due hnone
  have hreach : s.reach tr.deadline = s.moveOn := by
    have hnext : s.now + 1 - s.now - 1 = 0 := by omega
    rw [hend, State.reach, if_neg (by omega), hnext, State.pass]
  rw [State.tick_of_released hreset, State.runOut_of_busy htag, hreach, hmoved,
    State.expireDue_of_one (s := { s with now := s.now + 1 }) htag hend.le hothers htimeout, State.arbitrate_expireTag]

/-- Settles O2, by the cases of a microsecond: under RESET#, with no timer due, with timers due, and with one alone. -/
theorem emptyQueueIsOneMicrosecond : Obligations.EmptyQueueIsOneMicrosecond := by
  intro s hempty
  simp only [step_of_empty hempty, Option.mem_def, TagState.transaction_eq_some]
  refine ⟨fun hheld => ?_, fun hreset hnone => ?_, fun hreset => ?_, fun hreset htimeout t tr htag hend hothers => ?_⟩
  · rw [State.tick_of_resetHeld hheld]
  · rw [State.tick_of_none_due hreset hnone]
  · exact ⟨s.tick, rfl, s.tick_now, State.tick_mode_of_running, fun t tr htag hdue => State.tick_of_due hreset htag hdue⟩
  · rw [State.tick_of_one hreset htimeout htag hend hothers, exec_expiry, execExpiry_of_running hreset]

end Sys2Proof.Machine
end

section
/-! The commands that let time pass: MEMORY_READY, LINGER_EXPIRY and EXPIRY (R60, R65, R84, R85, R151). -/

namespace Sys2Proof.Machine

/-! ## The ready line and the linger timer -/

theorem execMemoryReady_of_withdrawn (s : State) : execMemoryReady .withdrawn s = .next { s with memoryReady := .withdrawn } := by
  rw [execMemoryReady, State.arbitrate_of_not_canAccept rfl]

/-- One microsecond of the way to a later time is a step on an empty queue. -/
theorem State.reach_of_later {s : State} {time : Nat} (h : s.now + 1 < time) : s.reach time = s.tick.reach time := by
  have hnow := s.tick_now
  rw [State.reach, if_neg (by omega), State.reach, if_neg (by omega), hnow]
  obtain ⟨n, rfl⟩ : ∃ n, time = s.now + n + 2 := ⟨time - s.now - 2, by omega⟩
  have hsteps : s.now + n + 2 - s.now - 1 = n + 1 := by omega
  have hrest : s.now + n + 2 - (s.now + 1) - 1 = n := by omega
  rw [hsteps, hrest, State.pass]

section
variable {s : State} {a : AreaId}

theorem exec_lingerExpiry (a : AreaId) (s : State) : exec (.lingerExpiry a) s = execLingerExpiry a s := rfl

theorem State.lingerTimer_of_running {h : Entry} (hhead : (s.area a).head = some h) (hheld : h.state = .held) (hlinger : (s.area a).linger ≠ 0)
    (hlater : s.now < h.lingerStart + (s.area a).linger) : s.lingerTimer a = some (h.lingerStart + (s.area a).linger) := by
  simp [State.lingerTimer, hhead, Entry.isHeld, hheld, hlinger, hlater]

theorem State.lingerTimer_of_idle (hidle : ∀ h, (s.area a).head = some h →
    h.state ≠ .held ∨ (s.area a).linger = 0 ∨ h.lingerStart + (s.area a).linger ≤ s.now) : s.lingerTimer a = none := by
  unfold State.lingerTimer
  split
  · rfl
  · next h hhead =>
    refine if_neg fun hrun => ?_
    simp only [Bool.and_eq_true, Entry.isHeld_iff, decide_eq_true_eq] at hrun
    obtain ⟨⟨hheld, hlinger⟩, hlater⟩ := hrun
    obtain hstate | hzero | hpast := hidle h hhead
    · exact hstate hheld
    · exact hlinger hzero
    · exact Nat.not_le.mpr hlater hpast

theorem execLingerExpiry_of_running (hreset : s.resetHeld = false) {time : Nat} (htimer : s.lingerTimer a = some time) :
    execLingerExpiry a s = .next (s.reach time).arbitrate := by
  rw [execLingerExpiry, State.unlessReset_of_running hreset, State.endLinger, htimer]

theorem execLingerExpiry_of_idle (hreset : s.resetHeld = false) (htimer : s.lingerTimer a = none) : execLingerExpiry a s = .next s := by
  rw [execLingerExpiry, State.unlessReset_of_running hreset, State.endLinger, htimer]

end

/-- Settles O25, by the ready level and by the area's linger timer. -/
theorem readyAndLinger : Obligations.ReadyAndLinger := by
  intro s a level
  refine ⟨execMemoryReady_of_withdrawn s, fun _ => rfl, fun hreset h hhead hheld hlinger => ?_, fun hreset hidle => ?_⟩
  · intro ending hlater
    have hexec : exec (.lingerExpiry a) s = .next (s.reach ending).arbitrate :=
      execLingerExpiry_of_running hreset (State.lingerTimer_of_running hhead hheld hlinger hlater)
    refine ⟨hexec, fun hnext hempty => ⟨s.tick, step_of_empty hempty, State.reach_of_later hnext⟩, fun hnone hquiet => ?_⟩
    have hreach := State.reach_of_quiet (time := ending) hreset
      (fun t tr htag _ => hnone t tr (TagState.transaction_eq_some.mpr htag)) hquiet
    rw [hexec, hreach, Nat.max_eq_right hlater.le]
  · exact execLingerExpiry_of_idle hreset (State.lingerTimer_of_idle hidle)

/-! ## The expiry of a tag -/

/-- The state in which the user of an expired tag is handled (R84, R85). -/
def State.expired (s : State) (t : TagId) (tr : Transaction) : State := (s.setTag t (.stale tr.user.isEntry)).markStale

theorem State.expireTag_eq (s : State) (t : TagId) (tr : Transaction) :
    s.expireTag t tr = ((s.expired t tr).handResult tr.user (.failed .expiry) zeroData).conclude s.responses.length := rfl

section
variable {v : State} {t : TagId} {tr : Transaction}

theorem State.expired_eq (v : State) (t : TagId) (tr : Transaction) :
    v.expired t tr = { v.setTag t (.stale tr.user.isEntry) with events := (v.expired t tr).events } := by
  rw [State.expired, State.markStale]
  split <;> rfl

theorem State.all_stale_iff (v : State) (t : TagId) (b : Bool) :
    (allTags.all fun u => ((v.setTag t (.stale b)).tag u).isStale) = true ↔ ∀ u, u ≠ t → (v.tag u).isStale = true := by
  simp only [List.all_eq_true, mem_allTags, forall_const]
  refine forall_congr' fun u => ?_
  by_cases hu : u = t
  · simp [hu, TagState.isStale]
  · simp [hu]

theorem State.expired_events_of_eighth (h : ∀ u, u ≠ t → (v.tag u).isStale = true) : (v.expired t tr).events = v.events ||| 0x0C0#11 := by
  rw [State.expired, State.markStale, if_pos ((v.all_stale_iff t _).mpr h)]
  exact BitVec.or_assoc ..

theorem State.expired_events_of_others (h : ¬ ∀ u, u ≠ t → (v.tag u).isStale = true) : (v.expired t tr).events = v.events ||| 0x040#11 := by
  rw [State.expired, State.markStale, if_neg (mt (v.all_stale_iff t _).mp h)]
  rfl

theorem State.expired_context (v : State) (t : TagId) (tr : Transaction) (m : MasterId) : (v.expired t tr).context m = v.context m := by
  simp [State.expired]

theorem State.expired_area (v : State) (t : TagId) (tr : Transaction) (a : AreaId) : (v.expired t tr).area a = v.area a := by
  simp [State.expired]

theorem State.expired_recordCounter (v : State) (t : TagId) (tr : Transaction) : (v.expired t tr).recordCounter = v.recordCounter := by
  simp [State.expired]

/-! ### The three users -/

theorem State.expireTag_of_master {m : MasterId} (huser : tr.user = .master m) :
    v.expireTag t tr = ((v.expired t tr).requestFailed m .expiry).conclude v.responses.length := by
  rw [State.expireTag_eq, huser]
  rfl

theorem State.expireTag_of_read {m : MasterId} {r : ReadReq} (huser : tr.user = .master m) (hwait : v.context m = .readWait r (.issued t)) :
    v.expireTag t tr = ((v.expired t tr).answer m (.error .timeout)).conclude v.responses.length := by
  rw [State.expireTag_of_master huser, State.requestFailed_of_read ((v.expired_context t tr m).trans hwait)]
  rfl

theorem State.expireTag_of_through {m : MasterId} {w : ThroughReq} (huser : tr.user = .master m)
    (hwait : v.context m = .throughWait w (.issued t)) :
    v.expireTag t tr = (((v.expired t tr).makeRecord
      { number := v.recordCounter, master := m, area := none, line := w.line, mask := some w.mask, cause := .timeout, attempts := 1
        entries := 1, disposition := .direct, escalated := false }).answer m (.error .timeout)).conclude v.responses.length := by
  rw [State.expireTag_of_master huser, State.requestFailed_of_through ((v.expired_context t tr m).trans hwait),
    State.expired_recordCounter]
  rfl

section
variable {a : AreaId} {e : Entry} (huser : tr.user = .entry a e.place) (hat : (v.area a).entryAt e.place = some e)
include huser hat

theorem State.expireTag_of_entry :
    v.expireTag t tr = ((v.expired t tr).attemptFailed a e .expiry).conclude v.responses.length := by
  have hat : ((v.expired t tr).area a).entryAt e.place = some e := v.expired_area t tr a ▸ hat
  rw [State.expireTag_eq, huser, State.handResult_of_entry hat]

/-- The timed-out attempt is the entry's last. -/
theorem State.expireTag_of_final (h : (v.area a).retry < e.attempts ∨ ∃ mark, (v.area a).pendingOp = some (.purge mark)) :
    v.expireTag t tr = (((v.expired t tr).finalFailure a e .expiry).settleArea a).conclude v.responses.length := by
  rw [State.expireTag_of_entry huser hat, State.attemptFailed_of_final (.inr ?_)]
  rw [State.expired_area]
  exact h.symm

variable (hnot : ¬ ((v.area a).retry < e.attempts ∨ ∃ mark, (v.area a).pendingOp = some (.purge mark)))
include hnot

theorem State.expireTag_of_strict (hstrict : e.strict = true) (hstate : (v.area a).state = .halted) :
    v.expireTag t tr = (((((v.expired t tr).setQueue a ((v.area a).queue.filter fun x => x.place != e.place)).answerStrict a e.place
      (.error .halted)).settleArea a).conclude v.responses.length) := by
  obtain ⟨hretry, hpurge⟩ := not_or.mp hnot
  have harea := v.expired_area t tr a
  rw [State.expireTag_of_entry huser hat,
    State.attemptFailed_of_strict (how := .expiry) nofun (harea ▸ hpurge) (harea ▸ hretry) hstrict (harea ▸ hstate), harea]

theorem State.expireTag_of_retried (h : e.strict = false ∨ (v.area a).state ≠ .halted) :
    v.expireTag t tr = ((v.expired t tr).updateEntry a e.place fun x => { x with state := .reissue }).conclude v.responses.length := by
  obtain ⟨hretry, hpurge⟩ := not_or.mp hnot
  have harea := v.expired_area t tr a
  rw [State.expireTag_of_entry huser hat, State.attemptFailed_of_retried (how := .expiry) nofun (harea ▸ hpurge) (harea ▸ hretry) (harea ▸ h)]

end

end

theorem State.runOut_of_not_busy {s : State} {t : TagId} (h : ∀ tr, s.tag t ≠ .busy tr) : s.runOut t = s := by
  unfold State.runOut
  split
  · next tr htag => exact absurd htag (h tr)
  all_goals rfl

/-- Settles O33: the timer's end is reached first, and then the tag expires, with one case for each kind of user. -/
theorem expiryMakesTagStale : Obligations.ExpiryMakesTagStale := by
  intro s t hreset
  refine ⟨fun tr htag => ?_, fun hidle => ?_⟩
  · have hexec : exec (.expiry t) s = .next ((s.reach tr.deadline).expireTag t tr) := by
      rw [exec_expiry, execExpiry_of_running hreset, State.runOut_of_busy htag]
    refine ⟨s.reach tr.deadline, State.reach_tag htag le_rfl, s.reach_now _, fun hpast => if_pos hpast,
      fun hlater hempty => ⟨s.tick, step_of_empty hempty, State.reach_of_later hlater⟩, fun hnone hquiet => ?_, ?_⟩
    · exact State.reach_of_quiet hreset (fun x y hx _ => hnone x y (TagState.transaction_eq_some.mpr hx)) hquiet
    · rw [hexec]
      refine ⟨(s.reach tr.deadline).expired t tr, State.expired_eq _ t tr, State.expired_events_of_eighth, State.expired_events_of_others,
        fun m r huser hwait => ?_, fun m w huser hwait => ?_, fun a e huser hat => ⟨fun hfinal => ?_, fun hnot hstrict hstate => ?_,
          fun hnot hkept => ?_⟩, fun hrun => ⟨_, rfl, ?_⟩⟩
      · rw [State.expireTag_of_read huser hwait]
      · rw [State.expireTag_of_through huser hwait]
      · rw [State.expireTag_of_final huser hat hfinal]
      · rw [State.expireTag_of_strict huser hat hnot hstrict hstate]
      · rw [State.expireTag_of_retried huser hat hnot hkept]
      · exact State.expireTag_tag_of_running t tr (State.reach_mode_of_running _ hrun)
  · rw [exec_expiry, execExpiry_of_running hreset, State.runOut_of_not_busy hidle]

end Sys2Proof.Machine
end

section
/-! The halt of an area (R108, R109): which requests it answers, and what it leaves unchanged. -/

namespace Sys2Proof.Machine

/-! ## Answers in one change -/

/-- From s to t these answers are sent: each answered context is IDLE, and a master record changes in its context alone, but for the
accounts that are cleared. -/
structure Replies (s t : State) (sent : List Answer) (cleared : MasterId → Prop) : Prop where
  responses : t.responses = s.responses ++ sent
  context : ∀ m, t.context m = if m ∈ sent.map Answer.master then .idle else s.context m
  kept : ∀ m, ¬ cleared m → t.master m = { s.master m with context := t.context m }
  clear : ∀ m, cleared m → t.master m = { s.master m with context := .idle, pendingCount := 0, firstFault := none }

namespace Replies

theorem nothing {s t : State} (hresponses : t.responses = s.responses) (hmaster : ∀ m, t.master m = s.master m) :
    Replies s t [] fun _ => False where
  responses := by rw [hresponses, List.append_nil]
  context m := congrArg MasterRec.context (hmaster m)
  kept m _ := by
    rw [State.context, hmaster]
  clear _ h := h.elim

theorem answer (s : State) (m : MasterId) (body : AnswerBody) :
    Replies s (s.answer m body) [{ master := m, body := body }] fun _ => False where
  responses := s.answer_responses m body
  context n := by simp
  kept n _ := by
    by_cases hn : n = m
    · simp [hn]
    · simp [hn, State.context]
  clear _ h := h.elim

/-- The halt terms (R95). -/
theorem haltTerms (s : State) (m : MasterId) :
    Replies s (s.answerHaltTerms m)
      [{ master := m, body := if (s.master m).pendingCount = 0 then .error .halted
          else .deferred (s.master m).pendingCount (s.master m).firstFault }]
      fun n => n = m ∧ (s.master n).pendingCount ≠ 0 := by
  by_cases hcount : (s.master m).pendingCount = 0
  · rw [State.answerHaltTerms, if_pos hcount, if_pos hcount]
    obtain ⟨hresponses, hcontext, hkept, -⟩ := answer s m (.error .halted)
    exact ⟨hresponses, hcontext, fun n _ => hkept n id, fun n ⟨hn, hne⟩ => absurd (hn ▸ hcount) hne⟩
  · rw [State.answerHaltTerms, if_neg hcount, if_neg hcount]
    refine ⟨rfl, fun n => ?_, fun n hn => ?_, fun n ⟨hn, _⟩ => ?_⟩
    · by_cases hn : n = m <;> simp [State.answerDeferred, State.clearAccount, State.context, hn]
    · have hne : n ≠ m := fun h => hn ⟨h, h ▸ hcount⟩
      simp [State.answerDeferred, State.clearAccount, State.context, hne]
    · simp [State.answerDeferred, State.clearAccount, hn]

theorem append {s t u : State} {first second : List Answer} {cleared : MasterId → Prop} (h : Replies s t first cleared)
    (k : Replies t u second fun _ => False) : Replies s u (first ++ second) cleared where
  responses := by rw [k.responses, h.responses, List.append_assoc]
  context m := by
    rw [k.context, h.context, List.map_append]
    by_cases hsecond : m ∈ second.map Answer.master <;> simp [hsecond]
  kept m hm := by rw [k.kept m id, h.kept m hm]
  clear m hm := by
    have hidle : t.context m = .idle := congrArg MasterRec.context (h.clear m hm)
    have hstill : u.context m = .idle := by rw [k.context, hidle, ite_self]
    rw [k.kept m id, h.clear m hm, hstill]

/-- The answers of a change that begins with what neither sends an answer nor touches a master. -/
theorem of_prelude {s t u : State} {sent : List Answer} {cleared : MasterId → Prop} (hresponses : t.responses = s.responses)
    (hmasters : t.masters = s.masters) (h : Replies t u sent cleared) : Replies s u sent cleared := by
  have hmaster (m : MasterId) : t.master m = s.master m := congrArg (·[m]) hmasters
  have hcontext (m : MasterId) : t.context m = s.context m := congrArg MasterRec.context (hmaster m)
  exact ⟨hresponses ▸ h.responses, fun m => hcontext m ▸ h.context m, fun m => hmaster m ▸ h.kept m, fun m => hmaster m ▸ h.clear m⟩

theorem congr {s t : State} {sent sent' : List Answer} {cleared cleared' : MasterId → Prop} (h : Replies s t sent cleared)
    (hsent : sent' = sent) (hcleared : ∀ m, cleared' m ↔ cleared m) : Replies s t sent' cleared' :=
  ⟨hsent ▸ h.responses, hsent ▸ h.context, fun m hm => h.kept m (mt (hcleared m).mpr hm), fun m hm => h.clear m ((hcleared m).mp hm)⟩

/-- A context that no answered master was in stands after the change exactly where it stood before. -/
theorem context_eq_iff {s t : State} {sent : List Answer} {cleared : MasterId → Prop} (h : Replies s t sent cleared) {m : MasterId}
    {c : Context} (hc : c ≠ .idle) (hm : s.context m = c → m ∉ sent.map Answer.master) : t.context m = c ↔ s.context m = c := by
  rw [h.context]
  split
  · next hsent => exact ⟨fun hidle => absurd hidle.symm hc, fun heq => absurd hsent (hm heq)⟩
  · exact Iff.rfl

end Replies

/-! ## The refused places of the Hold List -/

def HoldPlace.refusal (p : HoldPlace) : Answer := { master := p.master, body := .error .halted }

theorem foldl_answer_responses (l : List HoldPlace) (u : State) :
    (l.foldl (fun s p => s.answer p.master (.error .halted)) u).responses = u.responses ++ l.map HoldPlace.refusal := by
  induction l generalizing u with
  | nil => simp
  | cons p l ih =>
    rw [List.foldl_cons, ih, State.answer_responses, List.append_assoc]
    rfl

theorem Replies.refuseHolds (s : State) (a : AreaId) :
    Replies s (s.refuseHolds a) ((s.holdList.filter (s.waitsOn a)).map HoldPlace.refusal) fun _ => False where
  responses := foldl_answer_responses _ _
  context m := by
    rw [State.refuseHolds_context, List.map_map]
    rfl
  kept m _ := s.refuseHolds_master_eq a m
  clear _ h := h.elim

/-! ## The area's master -/

/-- The answer that the halt of the area gives its master, if it waits for a slot, for a strict entry not issued, or in a SYNC
(R28, R32, R96). -/
def State.haltBody (s : State) (a : AreaId) (m : MasterId) : Option AnswerBody :=
  match s.context m with
  | .postingWait _ => some (.error .halted)
  | .strictWait place => if ∃ e ∈ (s.area a).queue, e.strictUnissued = true ∧ e.place = place then some (.error .halted) else none
  | .syncWait _ => some (if (s.master m).pendingCount = 0 then .error .halted
      else .deferred (s.master m).pendingCount (s.master m).firstFault)
  | .idle | .throughWait _ _ | .readWait _ _ => none

def State.haltReply (s : State) (a : AreaId) : List Answer :=
  match (s.area a).master with
  | none => []
  | some m => (s.haltBody a m).toList.map fun body => { master := m, body := body }

theorem Entry.strictUnissued_iff (e : Entry) : e.strictUnissued = true ↔ e.strict = true ∧ ∀ u, e.state ≠ .issued u := by
  rw [Entry.strictUnissued, Bool.and_eq_true, Bool.not_eq_true', ← Bool.not_eq_true, Entry.isIssued_iff, not_exists]

theorem State.haltBody_eq_some {s : State} {a : AreaId} {m : MasterId} {body : AnswerBody} : s.haltBody a m = some body ↔
    (body = .error .halted ∧ ((∃ w, s.context m = .postingWait w) ∨
      ∃ e ∈ (s.area a).queue, e.strict = true ∧ (∀ u, e.state ≠ .issued u) ∧ s.context m = .strictWait e.place)) ∨
    (∃ mark, s.context m = .syncWait mark) ∧
      body = if (s.master m).pendingCount = 0 then .error .halted
        else .deferred (s.master m).pendingCount (s.master m).firstFault := by
  unfold State.haltBody
  cases hcontext : s.context m with
  | strictWait place =>
    have hwaiter : (∃ e ∈ (s.area a).queue, e.strictUnissued = true ∧ e.place = place) ↔
        ∃ e ∈ (s.area a).queue, e.strict = true ∧ (∀ u, e.state ≠ .issued u) ∧ Context.strictWait place = .strictWait e.place := by
      simp only [Entry.strictUnissued_iff, and_assoc, Context.strictWait.injEq, eq_comm (a := place)]
    simp only [hwaiter, Option.ite_none_right_eq_some, Option.some.injEq]
    simp [and_comm, eq_comm (b := body)]
  | postingWait w => simp [eq_comm (b := body)]
  | syncWait mark => simp [eq_comm (b := body)]
  | idle => simp
  | throughWait w stage => simp
  | readWait r stage => simp

theorem State.mem_haltReply {s : State} {a : AreaId} {x : Answer} :
    x ∈ s.haltReply a ↔ (s.area a).master = some x.master ∧ s.haltBody a x.master = some x.body := by
  unfold State.haltReply
  cases hm : (s.area a).master with
  | none => simp
  | some m => 
    obtain ⟨n, body⟩ := x
    simp only [List.mem_map, Option.mem_toList, Option.some.injEq]
    constructor
    · rintro ⟨b, hb, heq⟩
      cases heq
      exact ⟨rfl, hb⟩
    · rintro ⟨rfl, hb⟩
      exact ⟨body, hb, rfl⟩

theorem foldl_answerStrict_of_none {a : AreaId} (l : List Entry) {u : State} (hm : (u.area a).master = none) :
    l.foldl (fun s e => s.answerStrict a e.place (.error .halted)) u = u := by
  induction l with
  | nil => rfl
  | cons e l ih => rw [List.foldl_cons, State.answerStrict, hm, ih]

theorem foldl_answerStrict {a : AreaId} {m : MasterId} (l : List Entry) {u : State} (hm : (u.area a).master = some m) :
    l.foldl (fun s e => s.answerStrict a e.place (.error .halted)) u =
      if ∃ e ∈ l, u.context m = .strictWait e.place then u.answer m (.error .halted) else u := by
  induction l generalizing u with
  | nil => simp
  | cons e l ih =>
    rw [List.foldl_cons, State.answerStrict_of_master hm]
    by_cases hwait : u.context m = .strictWait e.place
    · rw [if_pos hwait, ih (by simpa using hm), if_neg (by simp), if_pos ⟨e, List.mem_cons_self, hwait⟩]
    · rw [if_neg hwait, ih hm]
      simp [hwait]

/-- The masters whose account the halt clears: the area's master in a SYNC with a count above 0 (R95, R96). -/
def State.clearedAtHalt (s : State) (a : AreaId) (m : MasterId) : Prop :=
  (s.area a).master = some m ∧ (∃ mark, s.context m = .syncWait mark) ∧ (s.master m).pendingCount ≠ 0

/-- The area's queue without its strict entries that are not issued. -/
def State.strictRemoved (s : State) (a : AreaId) : State := s.setQueue a ((s.area a).queue.filter fun e => !e.strictUnissued)

section
variable {s : State} {a : AreaId}

theorem State.removeStrict_of_none (hm : (s.area a).master = none) : s.removeStrict a = s.strictRemoved a :=
  foldl_answerStrict_of_none _ (by simpa using hm)

theorem State.removeStrict_of_master {m : MasterId} (hm : (s.area a).master = some m) :
    s.removeStrict a = if ∃ e ∈ (s.area a).queue, e.strictUnissued = true ∧ s.context m = .strictWait e.place
      then (s.strictRemoved a).answer m (.error .halted) else s.strictRemoved a := by
  refine (foldl_answerStrict _ (by simpa using hm)).trans ?_
  simp only [List.mem_filter, and_assoc]
  rfl

theorem State.removeStrict_of_not_strict {m : MasterId} (hm : (s.area a).master = some m) (h : ∀ place, s.context m ≠ .strictWait place) :
    s.removeStrict a = s.strictRemoved a := by
  rw [State.removeStrict_of_master hm, if_neg fun ⟨e, _, _, hwait⟩ => h e.place hwait]

theorem State.strictRemoved_context (s : State) (a : AreaId) (m : MasterId) : (s.strictRemoved a).context m = s.context m := by
  simp [State.strictRemoved]

theorem State.haltMaster_of_none (hm : (s.area a).master = none) : s.haltMaster a = s := by
  rw [State.haltMaster, hm]

end

section
variable {s : State} {a : AreaId} {m : MasterId}

theorem State.strictRemoved_master (hm : (s.area a).master = some m) : ((s.strictRemoved a).area a).master = some m := by
  simpa [State.strictRemoved] using hm

/-- The area's master waits neither for its slot nor in a SYNC. -/
theorem State.haltMaster_of_elsewhere (hm : (s.area a).master = some m) (hpost : ∀ w, s.context m ≠ .postingWait w)
    (hsync : ∀ mark, s.context m ≠ .syncWait mark) : s.haltMaster a = s := by
  rw [State.haltMaster, hm]
  dsimp only
  split
  · next w hcontext => exact absurd hcontext (hpost w)
  · next mark hcontext => exact absurd hcontext (hsync mark)
  all_goals rfl

theorem State.haltReply_of_master (hm : (s.area a).master = some m) {body : Option AnswerBody} (hbody : s.haltBody a m = body) :
    s.haltReply a = body.toList.map fun body => { master := m, body := body } := by
  subst hbody
  rw [State.haltReply, hm]

theorem State.clearedAtHalt_of_not_sync (hm : (s.area a).master = some m) (hsync : ∀ mark, s.context m ≠ .syncWait mark) (n : MasterId) :
    ¬ s.clearedAtHalt a n := by
  rintro ⟨hn, ⟨mark, hwait⟩, _⟩
  cases hm.symm.trans hn
  exact hsync mark hwait

end

theorem Replies.strictRemoved (s : State) (a : AreaId) : Replies s (s.strictRemoved a) [] fun _ => False := nothing rfl fun _ => rfl

theorem Replies.of_strictRemoved {s t : State} {a : AreaId} {sent : List Answer} {cleared : MasterId → Prop}
    (h : Replies (s.strictRemoved a) t sent cleared) : Replies s t sent cleared := of_prelude (t := s.strictRemoved a) rfl rfl h

/-- A master that waits neither for its slot nor in a SYNC is answered if its strict entry is removed. -/
theorem Replies.haltMaster_of_elsewhere {s : State} {a : AreaId} {m : MasterId} (hm : (s.area a).master = some m)
    (hpost : ∀ w, s.context m ≠ .postingWait w) (hsync : ∀ mark, s.context m ≠ .syncWait mark) :
    Replies s ((s.removeStrict a).haltMaster a) (s.haltReply a) (s.clearedAtHalt a) := by
  have hm' := State.strictRemoved_master hm
  have hcontext := s.strictRemoved_context a m
  have hcleared (n : MasterId) : s.clearedAtHalt a n ↔ False := iff_false_intro (State.clearedAtHalt_of_not_sync hm hsync n)
  rw [State.removeStrict_of_master hm]
  split
  · next hremoved =>
    obtain ⟨e, he, hstrict, hwait⟩ := hremoved
    obtain ⟨hstrict, hissued⟩ := e.strictUnissued_iff.mp hstrict
    have hbody : s.haltBody a m = some (.error .halted) := State.haltBody_eq_some.mpr (.inl ⟨rfl, .inr ⟨e, he, hstrict, hissued, hwait⟩⟩)
    rw [State.haltMaster_of_elsewhere (m := m) (by simpa using hm') (by simp) (by simp)]
    exact (answer _ m _).of_strictRemoved.congr (State.haltReply_of_master hm hbody) hcleared
  · next hkept =>
    have hbody : s.haltBody a m = none := Option.eq_none_iff_forall_ne_some.mpr fun body hbody => by
      obtain ⟨_, ⟨w, hwait⟩ | ⟨e, he, hstrict, hissued, hwait⟩⟩ | ⟨⟨mark, hwait⟩, _⟩ := State.haltBody_eq_some.mp hbody
      · exact hpost w hwait
      · exact hkept ⟨e, he, e.strictUnissued_iff.mpr ⟨hstrict, hissued⟩, hwait⟩
      · exact hsync mark hwait
    rw [State.haltMaster_of_elsewhere hm' (hcontext ▸ hpost) (hcontext ▸ hsync)]
    exact (strictRemoved s a).congr (State.haltReply_of_master hm hbody) hcleared

/-- The removal of the strict entries and the answers to the area's master (R28, R32, R96). -/
theorem Replies.haltMaster (s : State) (a : AreaId) :
    Replies s ((s.removeStrict a).haltMaster a) (s.haltReply a) (s.clearedAtHalt a) := by
  cases hm : (s.area a).master with
  | none =>
    have hm' : ((s.strictRemoved a).area a).master = none := by simpa [State.strictRemoved] using hm
    rw [State.removeStrict_of_none hm, State.haltMaster_of_none hm']
    exact (strictRemoved s a).congr (by simp [State.haltReply, hm]) (by simp [State.clearedAtHalt, hm])
  | some m =>
    have hm' := State.strictRemoved_master hm
    have hcontext := s.strictRemoved_context a m
    cases hwait : s.context m with
    | postingWait w =>
      have hdone : (s.strictRemoved a).haltMaster a = (s.strictRemoved a).answer m (.error .halted) := by
        simp only [State.haltMaster, hm', hcontext, hwait]
      rw [State.removeStrict_of_not_strict hm (by simp [hwait]), hdone]
      refine (answer _ m _).of_strictRemoved.congr ?_ (by simp [State.clearedAtHalt_of_not_sync hm, hwait])
      exact State.haltReply_of_master hm (by rw [State.haltBody, hwait])
    | syncWait mark =>
      have hdone : (s.strictRemoved a).haltMaster a = (s.strictRemoved a).answerHaltTerms m := by
        simp only [State.haltMaster, hm', hcontext, hwait]
      rw [State.removeStrict_of_not_strict hm (by simp [hwait]), hdone]
      refine (haltTerms _ m).of_strictRemoved.congr ?_ fun n => ?_
      · exact State.haltReply_of_master hm (by rw [State.haltBody, hwait])
      · simp only [State.clearedAtHalt, hm, Option.some.injEq]
        constructor
        · rintro ⟨rfl, -, hcount⟩
          exact ⟨rfl, hcount⟩
        · rintro ⟨rfl, hcount⟩
          exact ⟨rfl, ⟨mark, hwait⟩, hcount⟩
    | idle => exact haltMaster_of_elsewhere hm (by simp [hwait]) (by simp [hwait])
    | strictWait place => exact haltMaster_of_elsewhere hm (by simp [hwait]) (by simp [hwait])
    | throughWait w stage => exact haltMaster_of_elsewhere hm (by simp [hwait]) (by simp [hwait])
    | readWait r stage => exact haltMaster_of_elsewhere hm (by simp [hwait]) (by simp [hwait])

/-! ## The halt -/

/-- The area is HALTED, HALT is set, and a pending DRAIN has ended (R108); its waiters are not yet told. -/
def State.haltBegun (s : State) (a : AreaId) : State := ((s.setArea a { s.area a with state := .halted }).raise .halt).cutDrain a

/-- The place in the Hold List waits on an entry that the halt leaves in the area (R38, R50, log 14). -/
def State.refusedAtHalt (s : State) (a : AreaId) (p : HoldPlace) : Bool := (s.strictRemoved a).waitsOn a p

theorem State.haltArea_eq (s : State) (a : AreaId) :
    s.haltArea a = ((((s.haltBegun a).removeStrict a).haltMaster a).refuseHolds a) := rfl

section
variable (s : State) (a : AreaId)

theorem State.haltBegun_queue : ((s.haltBegun a).area a).queue = (s.area a).queue := by
  unfold State.haltBegun State.cutDrain
  split <;> simp

theorem State.haltBegun_areaMaster : ((s.haltBegun a).area a).master = (s.area a).master := by
  unfold State.haltBegun State.cutDrain
  split <;> simp

theorem State.haltBegun_masters : (s.haltBegun a).masters = s.masters := by
  simp [State.haltBegun]

theorem State.haltBegun_context (m : MasterId) : (s.haltBegun a).context m = s.context m := by
  simp [State.haltBegun]

theorem State.haltBegun_master (m : MasterId) : (s.haltBegun a).master m = s.master m := by
  simp [State.haltBegun]

theorem State.haltBegun_haltReply : (s.haltBegun a).haltReply a = s.haltReply a := by
  simp only [State.haltReply, State.haltBody, State.haltBegun_areaMaster, State.haltBegun_context, State.haltBegun_queue,
    State.haltBegun_master]

theorem State.haltBegun_clearedAtHalt (m : MasterId) : (s.haltBegun a).clearedAtHalt a m ↔ s.clearedAtHalt a m := by
  simp only [State.clearedAtHalt, State.haltBegun_areaMaster, State.haltBegun_context, State.haltBegun_master]

/-- The removal of the strict entries and the answers to the area's master, as the halt makes them. -/
theorem Replies.haltBegun :
    Replies s (((s.haltBegun a).removeStrict a).haltMaster a) (s.haltReply a) (s.clearedAtHalt a) :=
  of_prelude (t := s.haltBegun a) (by simp [State.haltBegun]) (s.haltBegun_masters a)
    ((haltMaster (s.haltBegun a) a).congr (s.haltBegun_haltReply a).symm fun m => (s.haltBegun_clearedAtHalt a m).symm)

end

/-- The area's master that is answered has no request in the Hold List. -/
theorem State.heldLine_of_haltReply {s : State} {a : AreaId} {m : MasterId} (h : m ∈ (s.haltReply a).map Answer.master) :
    (s.context m).heldLine = none := by
  obtain ⟨x, hx, rfl⟩ := List.mem_map.mp h
  obtain ⟨-, hbody⟩ := State.mem_haltReply.mp hx
  obtain ⟨_, ⟨w, hwait⟩ | ⟨e, _, _, _, hwait⟩⟩ | ⟨⟨mark, hwait⟩, _⟩ := State.haltBody_eq_some.mp hbody <;>
    rw [hwait] <;> rfl

/-- Whether a place waits on the area is the same before and after the area's master is answered. -/
theorem State.waitsOn_haltMaster (s : State) (a : AreaId) (p : HoldPlace) :
    (((s.haltBegun a).removeStrict a).haltMaster a).waitsOn a p = s.refusedAtHalt a p := by
  have hsame {c : Context} (hheld : c.heldLine ≠ none) :
      (((s.haltBegun a).removeStrict a).haltMaster a).context p.master = c ↔ (s.strictRemoved a).context p.master = c := by
    rw [State.strictRemoved_context]
    refine (Replies.haltBegun s a).context_eq_iff (fun hidle => hheld (hidle ▸ rfl)) fun hcontext hsent => ?_
    exact hheld (hcontext ▸ State.heldLine_of_haltReply hsent)
  have hqueue : ((((s.haltBegun a).removeStrict a).haltMaster a).area a).queue = ((s.strictRemoved a).area a).queue := by
    simp [State.removeStrict_area, State.haltBegun_queue, State.strictRemoved]
  rw [Bool.eq_iff_iff, State.refusedAtHalt, State.waitsOn_iff, State.waitsOn_iff, hqueue]
  have hread (r : ReadReq) := hsame (c := .readWait r .inHold) (Option.some_ne_none _)
  have hthrough (w : ThroughReq) := hsame (c := .throughWait w .inHold) (Option.some_ne_none _)
  simp only [hread, hthrough]

theorem Replies.haltArea (s : State) (a : AreaId) : Replies s (s.haltArea a)
    (s.haltReply a ++ (s.holdList.filter (s.refusedAtHalt a)).map HoldPlace.refusal) (s.clearedAtHalt a) := by
  have hholds : (((s.haltBegun a).removeStrict a).haltMaster a).holdList = s.holdList := by simp [State.haltBegun]
  have hwaits : (((s.haltBegun a).removeStrict a).haltMaster a).waitsOn a = s.refusedAtHalt a := funext (s.waitsOn_haltMaster a)
  refine ((haltBegun s a).append (refuseHolds _ a)).congr ?_ fun _ => Iff.rfl
  rw [hholds, hwaits]

theorem State.haltArea_holdList (s : State) (a : AreaId) :
    (s.haltArea a).holdList = s.holdList.filter fun p => !s.refusedAtHalt a p := by
  have hholds : (((s.haltBegun a).removeStrict a).haltMaster a).holdList = s.holdList := by simp [State.haltBegun]
  have hwaits : (((s.haltBegun a).removeStrict a).haltMaster a).waitsOn a = s.refusedAtHalt a := funext (s.waitsOn_haltMaster a)
  rw [State.haltArea_eq, State.refuseHolds_holdList, hholds, hwaits]

theorem State.refusedAtHalt_iff (s : State) (a : AreaId) (p : HoldPlace) : s.refusedAtHalt a p = true ↔ p.released = false ∧
    ((∃ r, s.context p.master = .readWait r .inHold ∧
        ∃ e ∈ (s.area a).queue.filter fun e => !(e.strict && !e.isIssued), e.line = r.line) ∨
      ∃ w, s.context p.master = .throughWait w .inHold ∧
        ∃ e ∈ (s.area a).queue.filter fun e => !(e.strict && !e.isIssued), e.line = w.line ∧ e.place < w.mark) := by
  have hqueue : ((s.strictRemoved a).area a).queue = (s.area a).queue.filter fun e => !(e.strict && !e.isIssued) := by
    simp [State.strictRemoved, Entry.strictUnissued]
  rw [State.refusedAtHalt, State.waitsOn_iff, State.strictRemoved_context, hqueue]

theorem State.heldLine_of_refusedAtHalt {s : State} {a : AreaId} {p : HoldPlace} (h : s.refusedAtHalt a p = true) :
    (s.context p.master).heldLine ≠ none := by
  obtain ⟨-, ⟨r, hwait, -⟩ | ⟨w, hwait, -⟩⟩ := (s.refusedAtHalt_iff a p).mp h <;>
    rw [hwait] <;> exact Option.some_ne_none _

theorem State.haltReply_nodup (s : State) (a : AreaId) : ((s.haltReply a).map Answer.master).Nodup := by
  unfold State.haltReply
  split
  · exact List.nodup_nil
  · next m _ => cases s.haltBody a m <;> simp

/-- No master is answered twice in a halt. -/
theorem State.haltArea_nodup {s : State} (h : s.HoldAgrees) (a : AreaId) :
    ((s.haltReply a ++ (s.holdList.filter (s.refusedAtHalt a)).map HoldPlace.refusal).map Answer.master).Nodup := by
  have hmasters (l : List HoldPlace) : (l.map HoldPlace.refusal).map Answer.master = l.map HoldPlace.master := by
    rw [List.map_map]
    rfl
  obtain ⟨hnodup, -⟩ := h
  rw [List.map_append, hmasters]
  refine (s.haltReply_nodup a).append (hnodup.sublist (List.filter_sublist.map _)) fun m hreply hrefused => ?_
  obtain ⟨p, hp, rfl⟩ := List.mem_map.mp hrefused
  obtain ⟨-, hwaits⟩ := List.mem_filter.mp hp
  exact State.heldLine_of_refusedAtHalt hwaits (State.heldLine_of_haltReply hreply)

theorem mem_map_refusal {l : List HoldPlace} {x : Answer} :
    x ∈ l.map HoldPlace.refusal ↔ x.body = .error .halted ∧ ∃ p ∈ l, p.master = x.master := by
  obtain ⟨m, body⟩ := x
  simp only [List.mem_map, HoldPlace.refusal, Answer.mk.injEq]
  grind

/-! ## The record of the area and the flags -/

theorem AreaRec.haltedRec_state (r : AreaRec) : r.haltedRec.state = .halted := by
  unfold AreaRec.haltedRec
  dsimp only
  split <;> rfl

theorem AreaRec.haltedRec_queue (r : AreaRec) : r.haltedRec.queue = r.queue.filter fun e => !(e.strict && !e.isIssued) := by
  unfold AreaRec.haltedRec
  dsimp only
  split <;> rfl

theorem AreaRec.haltedRec_of_drain {r : AreaRec} {mark : Nat} (h : r.pendingOp = some (.drain mark)) :
    r.haltedRec.pendingOp = none ∧ r.haltedRec.lastOutcome = .cutShort := by
  unfold AreaRec.haltedRec
  rw [h]
  exact ⟨rfl, rfl⟩

/-- What the halt sets in the Event Set, it sets before the waiters are told. -/
theorem State.haltArea_keepsFlags (s : State) (a : AreaId) : KeepsFlags (s.haltBegun a) (s.haltArea a) :=
  KeepsFlags.of_events (by simp [State.haltArea_eq])

theorem State.haltArea_halt (s : State) (a : AreaId) : (s.haltArea a).eventSet .halt = true :=
  ((KeepsFlags.cutDrain _ a).trans (s.haltArea_keepsFlags a)) _ (State.eventSet_raise _ _)

theorem State.haltArea_drained {s : State} {a : AreaId} {mark : Nat} (h : (s.area a).pendingOp = some (.drain mark)) :
    (s.haltArea a).eventSet .drained = true := by
  refine s.haltArea_keepsFlags a _ ?_
  have hop : (((s.setArea a { s.area a with state := .halted }).raise .halt).area a).pendingOp = some (.drain mark) := by simpa using h
  rw [State.haltBegun, State.cutDrain, hop]
  exact State.eventSet_raise _ _

/-- Settles O30: the halt sends the answers of Replies.haltArea, to the area's master and to the refused places of the Hold List. -/
theorem haltReachesWaiters : Obligations.HaltReachesWaiters := by
  intro s a t kept waits
  have harea : t.area a = (s.area a).haltedRec := by rw [s.haltArea_area, if_pos rfl]
  have hwaits (p : HoldPlace) : s.refusedAtHalt a p = true ↔ waits p := s.refusedAtHalt_iff a p
  obtain ⟨hresponses, hcontext, hrecord, hcleared⟩ := Replies.haltArea s a
  refine ⟨harea ▸ AreaRec.haltedRec_state _, harea ▸ AreaRec.haltedRec_queue _, s.haltArea_halt a, fun mark hop => ?_, fun p => ?_,
    ⟨_, hresponses, fun hagrees => State.haltArea_nodup hagrees a, fun x => ?_, hcontext⟩,
    fun m => ⟨hrecord m, hcleared m⟩, fun b hb => ?_, ?_⟩
  · obtain ⟨hnone, houtcome⟩ := AreaRec.haltedRec_of_drain hop
    exact ⟨harea ▸ hnone, harea ▸ houtcome, State.haltArea_drained hop⟩
  · rw [s.haltArea_holdList a, List.mem_filter, Bool.not_eq_true', ← Bool.not_eq_true, hwaits]
  · rw [List.mem_append, State.mem_haltReply, State.haltBody_eq_some, mem_map_refusal, or_comm]
    simp only [List.mem_filter, hwaits, and_assoc]
  · rw [s.haltArea_area, if_neg hb]
  · simp [t]

end Sys2Proof.Machine
end
